-- ==== Sys2Proof/Word.lean ====
section
/-! DEFINITION. The widths of the machine's data: the 32-bit word, the 8-bit byte, the 5-bit register number
(`00_scope.md` R6). -/
namespace Sys2Proof

/-- A 32-bit register value, program counter, address or instruction word (R6: XLEN = 32, 32 address lines). -/
abbrev Word := BitVec 32

/-- The smallest addressable unit, 8 bits (R6). -/
abbrev Byte := BitVec 8

/-- A visible general register number, 0..31 (R22). -/
abbrev RegNum := BitVec 5

end Sys2Proof
end

