-- ==== Sys2Proof/Syntax.lean ====
section
/-! DEFINITION. The instruction set as syntax: one constructor of `Instr` per row of `spec/opcode_table.json`
(86 rows, `00_scope.md` R2), in the table's order, with the operand forms of `30_encoding.md`. -/
namespace Sys2Proof

/-- The second operand of a format-3 instruction (R114, R121): register `ro2` (i = 0), or the 13-bit constant
(i = 1), which the instruction extends with its sign or with zeros. -/
inductive Operand2 where
  | reg (ro2 : RegNum)
  | imm (const13 : BitVec 13)
  deriving DecidableEq, Repr

/-- The count of a shift (R115, R123): the low five bits of `ro2` (i = 0), or the unsigned `const5` (i = 1; bits 12:5
of the word are ignored, so no operand stands for them). -/
inductive ShiftCount where
  | reg (ro2 : RegNum)
  | imm (const5 : BitVec 5)
  deriving DecidableEq, Repr

/-- The sixteen conditions of CCLOGIC (R41, R346). -/
inductive Cond where
  | never | e | le | l | leu | cs | neg | vs
  | always | ne | g | ge | gu | cc | pos | vc
  deriving DecidableEq, Repr

/-- The 4-bit code of a condition (R41, R127). -/
def Cond.code : Cond → BitVec 4
  | .never => 0b0000
  | .e => 0b0001
  | .le => 0b0010
  | .l => 0b0011
  | .leu => 0b0100
  | .cs => 0b0101
  | .neg => 0b0110
  | .vs => 0b0111
  | .always => 0b1000
  | .ne => 0b1001
  | .g => 0b1010
  | .ge => 0b1011
  | .gu => 0b1100
  | .cc => 0b1101
  | .pos => 0b1110
  | .vc => 0b1111

/-- The 86 instructions (R2). `rd` is the destination (for a store, the register stored), `ro1` the first source,
`o` the second operand; `a` is a branch's annul bit. -/
inductive Instr where
  -- loads and stores (`40_memory_access.md`)
  | ld (rd ro1 : RegNum) (o : Operand2)
  | ldub (rd ro1 : RegNum) (o : Operand2)
  | lduh (rd ro1 : RegNum) (o : Operand2)
  | ldsb (rd ro1 : RegNum) (o : Operand2)
  | ldsh (rd ro1 : RegNum) (o : Operand2)
  | st (rd ro1 : RegNum) (o : Operand2)
  | stb (rd ro1 : RegNum) (o : Operand2)
  | sth (rd ro1 : RegNum) (o : Operand2)
  -- `41_sethi.md`, `48_nop.md`
  | sethi (rd : RegNum) (const22 : BitVec 22)
  | nop
  -- logical and arithmetic (`42_logic_arith.md`)
  | and (rd ro1 : RegNum) (o : Operand2)
  | andcc (rd ro1 : RegNum) (o : Operand2)
  | or (rd ro1 : RegNum) (o : Operand2)
  | orcc (rd ro1 : RegNum) (o : Operand2)
  | xor (rd ro1 : RegNum) (o : Operand2)
  | xorcc (rd ro1 : RegNum) (o : Operand2)
  | andn (rd ro1 : RegNum) (o : Operand2)
  | andncc (rd ro1 : RegNum) (o : Operand2)
  | orn (rd ro1 : RegNum) (o : Operand2)
  | orncc (rd ro1 : RegNum) (o : Operand2)
  | xnor (rd ro1 : RegNum) (o : Operand2)
  | xnorcc (rd ro1 : RegNum) (o : Operand2)
  | add (rd ro1 : RegNum) (o : Operand2)
  | addcc (rd ro1 : RegNum) (o : Operand2)
  | sub (rd ro1 : RegNum) (o : Operand2)
  | subcc (rd ro1 : RegNum) (o : Operand2)
  | umul (rd ro1 : RegNum) (o : Operand2)
  | umulcc (rd ro1 : RegNum) (o : Operand2)
  | smul (rd ro1 : RegNum) (o : Operand2)
  | smulcc (rd ro1 : RegNum) (o : Operand2)
  | udiv (rd ro1 : RegNum) (o : Operand2)
  | udivcc (rd ro1 : RegNum) (o : Operand2)
  | sdiv (rd ro1 : RegNum) (o : Operand2)
  | sdivcc (rd ro1 : RegNum) (o : Operand2)
  -- shifts (`43_shift.md`)
  | sll (rd ro1 : RegNum) (n : ShiftCount)
  | srl (rd ro1 : RegNum) (n : ShiftCount)
  | sra (rd ro1 : RegNum) (n : ShiftCount)
  -- relative branches (`44_branch.md`)
  | bn (a : Bool) (disp22 : BitVec 22)
  | be (a : Bool) (disp22 : BitVec 22)
  | ble (a : Bool) (disp22 : BitVec 22)
  | bl (a : Bool) (disp22 : BitVec 22)
  | bleu (a : Bool) (disp22 : BitVec 22)
  | bcs (a : Bool) (disp22 : BitVec 22)
  | bneg (a : Bool) (disp22 : BitVec 22)
  | bvs (a : Bool) (disp22 : BitVec 22)
  | ba (a : Bool) (disp22 : BitVec 22)
  | bne (a : Bool) (disp22 : BitVec 22)
  | bg (a : Bool) (disp22 : BitVec 22)
  | bge (a : Bool) (disp22 : BitVec 22)
  | bgu (a : Bool) (disp22 : BitVec 22)
  | bcc (a : Bool) (disp22 : BitVec 22)
  | bpos (a : Bool) (disp22 : BitVec 22)
  | bvc (a : Bool) (disp22 : BitVec 22)
  -- `45_jump_rett_call.md`, `46_window.md`
  | jmp (rd ro1 : RegNum) (o : Operand2)
  | rett (ro1 : RegNum) (o : Operand2)
  | call (disp30 : BitVec 30)
  | save (rd ro1 : RegNum) (o : Operand2)
  | restore (rd ro1 : RegNum) (o : Operand2)
  -- software traps (`47_trap_instr.md`)
  | tn (ro1 : RegNum) (o : Operand2)
  | te (ro1 : RegNum) (o : Operand2)
  | tle (ro1 : RegNum) (o : Operand2)
  | tl (ro1 : RegNum) (o : Operand2)
  | tleu (ro1 : RegNum) (o : Operand2)
  | tcs (ro1 : RegNum) (o : Operand2)
  | tneg (ro1 : RegNum) (o : Operand2)
  | tvs (ro1 : RegNum) (o : Operand2)
  | ta (ro1 : RegNum) (o : Operand2)
  | tne (ro1 : RegNum) (o : Operand2)
  | tg (ro1 : RegNum) (o : Operand2)
  | tge (ro1 : RegNum) (o : Operand2)
  | tgu (ro1 : RegNum) (o : Operand2)
  | tcc (ro1 : RegNum) (o : Operand2)
  | tpos (ro1 : RegNum) (o : Operand2)
  | tvc (ro1 : RegNum) (o : Operand2)
  -- state registers (`49_state_regs.md`)
  | rdY (rd : RegNum)
  | rdBase (rd : RegNum)
  | rdLimite (rd : RegNum)
  | rdPsr (rd : RegNum)
  | rdWim (rd : RegNum)
  | rdTbr (rd : RegNum)
  | wrY (ro1 : RegNum) (o : Operand2)
  | wrBase (ro1 : RegNum) (o : Operand2)
  | wrLimite (ro1 : RegNum) (o : Operand2)
  | wrPsr (ro1 : RegNum) (o : Operand2)
  | wrWim (ro1 : RegNum) (o : Operand2)
  | wrTbr (ro1 : RegNum) (o : Operand2)
  deriving DecidableEq, Repr

end Sys2Proof
end

