-- ==== Sys2Proof/WellFormed.lean ====
section
/-! DEFINITION. Which terms of `Instr` are instructions. Every field has the width of its place in the word, so only
one term is ill-formed. -/
namespace Sys2Proof

/-- A term is well formed unless it is `sethi 0, %g0`: that word is the row `nop` of the table (R112, R137, R310;
log entry 32), so the term `nop` stands for it. -/
def Instr.wellFormed : Instr → Bool
  | .sethi rd const22 => !(rd == 0 && const22 == 0)
  | _ => true

end Sys2Proof
end

