-- ==== Sys2Proof/Decode.lean ====
section
/-! DEFINITION. Instruction words to instructions and back (`30_encoding.md`): the decoder of R134, total on every
word, and after it the encoder, written from the same tables. -/
namespace Sys2Proof

/-- What a word stands for: an instruction; an unassigned encoding (R131, which raises `illegal_instruction`); or a word
that matches a row and has a non-zero bit in a field that must be zero (R132, which has no meaning). -/
inductive Decoded where
  | instr (i : Instr)
  | unassigned
  | reservedField
  deriving DecidableEq, Repr

/-! ### Fields of a word (R110 to R115) -/

/-- Bits 31:30. -/
def opField (w : Word) : BitVec 2 := w.extractLsb' 30 2
/-- Bits 29:25. -/
def rdField (w : Word) : RegNum := w.extractLsb' 25 5
/-- Bits 24:19. -/
def op3Field (w : Word) : BitVec 6 := w.extractLsb' 19 6
/-- Bits 18:14. -/
def ro1Field (w : Word) : RegNum := w.extractLsb' 14 5
/-- Bit 13, which chooses the immediate form. -/
def iField (w : Word) : Bool := w.getLsbD 13
/-- Bits 12:5, zero in every register form. -/
def zeroField (w : Word) : BitVec 8 := w.extractLsb' 5 8
/-- Bits 4:0: `ro2`, or the count of an immediate shift. -/
def ro2Field (w : Word) : RegNum := w.extractLsb' 0 5
/-- Bits 12:0. -/
def const13Field (w : Word) : BitVec 13 := w.extractLsb' 0 13
/-- Bits 24:22 of format 2. -/
def op2Field (w : Word) : BitVec 3 := w.extractLsb' 22 3
/-- Bits 21:0 of format 2. -/
def low22Field (w : Word) : BitVec 22 := w.extractLsb' 0 22
/-- Bit 29 of a branch (annul) and of a software trap (reserved). -/
def bit29Field (w : Word) : Bool := w.getLsbD 29
/-- Bits 28:25 of a branch or a software trap. -/
def condField (w : Word) : BitVec 4 := w.extractLsb' 25 4
/-- Bits 29:0 of format 1. -/
def disp30Field (w : Word) : BitVec 30 := w.extractLsb' 0 30
/-- Bits 13:0, zero in a read of a state register (R115). -/
def low14Field (w : Word) : BitVec 14 := w.extractLsb' 0 14

/-! ### The opcode maps (R118 to R120, R129, R130) -/

/-- op = 11 (R120). -/
def memoryRow (op3 : BitVec 6) : Option (RegNum → RegNum → Operand2 → Instr) :=
  if op3 = 0b000000 then some .ld
  else if op3 = 0b000001 then some .ldub
  else if op3 = 0b000010 then some .lduh
  else if op3 = 0b001001 then some .ldsb
  else if op3 = 0b001010 then some .ldsh
  else if op3 = 0b000100 then some .st
  else if op3 = 0b000101 then some .stb
  else if op3 = 0b000110 then some .sth
  else none

/-- op = 10, the rows with a destination and a second operand (R119): logic, arithmetic, `jmp`, `save`, `restore`. -/
def operandRow (op3 : BitVec 6) : Option (RegNum → RegNum → Operand2 → Instr) :=
  if op3 = 0b000001 then some .and
  else if op3 = 0b010001 then some .andcc
  else if op3 = 0b000010 then some .or
  else if op3 = 0b010010 then some .orcc
  else if op3 = 0b000011 then some .xor
  else if op3 = 0b010011 then some .xorcc
  else if op3 = 0b000101 then some .andn
  else if op3 = 0b010101 then some .andncc
  else if op3 = 0b000110 then some .orn
  else if op3 = 0b010110 then some .orncc
  else if op3 = 0b000111 then some .xnor
  else if op3 = 0b010111 then some .xnorcc
  else if op3 = 0b000000 then some .add
  else if op3 = 0b010000 then some .addcc
  else if op3 = 0b000100 then some .sub
  else if op3 = 0b010100 then some .subcc
  else if op3 = 0b001010 then some .umul
  else if op3 = 0b011010 then some .umulcc
  else if op3 = 0b001011 then some .smul
  else if op3 = 0b011011 then some .smulcc
  else if op3 = 0b001110 then some .udiv
  else if op3 = 0b011110 then some .udivcc
  else if op3 = 0b001111 then some .sdiv
  else if op3 = 0b011111 then some .sdivcc
  else if op3 = 0b111000 then some .jmp
  else if op3 = 0b111100 then some .save
  else if op3 = 0b111101 then some .restore
  else none

/-- op = 10, the shifts (R119). -/
def shiftRow (op3 : BitVec 6) : Option (RegNum → RegNum → ShiftCount → Instr) :=
  if op3 = 0b100101 then some .sll
  else if op3 = 0b100110 then some .srl
  else if op3 = 0b100111 then some .sra
  else none

/-- op = 10, the rows with a second operand whose bits 29:25 must be zero (R119, R132): `rett` and the writes of
PSR, WIM, TBR. -/
def noRdRow (op3 : BitVec 6) : Option (RegNum → Operand2 → Instr) :=
  if op3 = 0b111001 then some .rett
  else if op3 = 0b110001 then some .wrPsr
  else if op3 = 0b110010 then some .wrWim
  else if op3 = 0b110011 then some .wrTbr
  else none

/-- op = 10, the reads of PSR, WIM, TBR, whose bits 18:14 must be zero (R119, R132). -/
def readRow (op3 : BitVec 6) : Option (RegNum → Instr) :=
  if op3 = 0b101001 then some .rdPsr
  else if op3 = 0b101010 then some .rdWim
  else if op3 = 0b101011 then some .rdTbr
  else none

/-- op3 = 101000: the register read is named by `ro1` (R129). -/
def readSelected (sel : RegNum) : Option (RegNum → Instr) :=
  if sel = 0 then some .rdY
  else if sel = 1 then some .rdBase
  else if sel = 2 then some .rdLimite
  else none

/-- op3 = 110000: the register written is named by bits 29:25 (R130, decision D24; log entry 22). -/
def writeSelected (sel : RegNum) : Option (RegNum → Operand2 → Instr) :=
  if sel = 0 then some .wrY
  else if sel = 1 then some .wrBase
  else if sel = 2 then some .wrLimite
  else none

/-- The branch of a condition code (R113, R230). -/
def branchRow (c : BitVec 4) : Bool → BitVec 22 → Instr :=
  if c = Cond.never.code then .bn
  else if c = Cond.e.code then .be
  else if c = Cond.le.code then .ble
  else if c = Cond.l.code then .bl
  else if c = Cond.leu.code then .bleu
  else if c = Cond.cs.code then .bcs
  else if c = Cond.neg.code then .bneg
  else if c = Cond.vs.code then .bvs
  else if c = Cond.always.code then .ba
  else if c = Cond.ne.code then .bne
  else if c = Cond.g.code then .bg
  else if c = Cond.ge.code then .bge
  else if c = Cond.gu.code then .bgu
  else if c = Cond.cc.code then .bcc
  else if c = Cond.pos.code then .bpos
  else .bvc

/-- The software trap of a condition code (R115, R285). -/
def trapRow (c : BitVec 4) : RegNum → Operand2 → Instr :=
  if c = Cond.never.code then .tn
  else if c = Cond.e.code then .te
  else if c = Cond.le.code then .tle
  else if c = Cond.l.code then .tl
  else if c = Cond.leu.code then .tleu
  else if c = Cond.cs.code then .tcs
  else if c = Cond.neg.code then .tneg
  else if c = Cond.vs.code then .tvs
  else if c = Cond.always.code then .ta
  else if c = Cond.ne.code then .tne
  else if c = Cond.g.code then .tg
  else if c = Cond.ge.code then .tge
  else if c = Cond.gu.code then .tgu
  else if c = Cond.cc.code then .tcc
  else if c = Cond.pos.code then .tpos
  else .tvc

/-! ### The decoder (R134) -/

/-- The second operand of a format-3 word: nothing when i = 0 and bits 12:5 are not zero (R132). -/
def operandField (w : Word) : Option Operand2 :=
  if iField w then some (.imm (const13Field w))
  else if zeroField w = 0 then some (.reg (ro2Field w))
  else none

/-- The count of a shift: bits 12:5 are ignored when i = 1 and must be zero when i = 0 (R115, R132, R224). -/
def shiftField (w : Word) : Option ShiftCount :=
  if iField w then some (.imm (ro2Field w))
  else if zeroField w = 0 then some (.reg (ro2Field w))
  else none

/-- An instruction that needs an operand, when its must-be-zero bits are zero. -/
def Decoded.needs {α : Type} (o : Option α) (make : α → Instr) : Decoded :=
  match o with
  | some x => .instr (make x)
  | none => .reservedField

/-- op = 00 (R118): `sethi` and `nop`, and the branches. -/
def decodeFormat2 (w : Word) : Decoded :=
  if op2Field w = 0b100 then
    if rdField w = 0 ∧ low22Field w = 0 then .instr .nop else .instr (.sethi (rdField w) (low22Field w))
  else if op2Field w = 0b010 then .instr (branchRow (condField w) (bit29Field w) (low22Field w))
  else .unassigned

/-- op = 10 (R119). -/
def decodeOp10 (w : Word) : Decoded :=
  match operandRow (op3Field w) with
  | some make => .needs (operandField w) (make (rdField w) (ro1Field w))
  | none =>
  match shiftRow (op3Field w) with
  | some make => .needs (shiftField w) (make (rdField w) (ro1Field w))
  | none =>
  match noRdRow (op3Field w) with
  | some make => if rdField w = 0 then .needs (operandField w) (make (ro1Field w)) else .reservedField
  | none =>
  match readRow (op3Field w) with
  | some make => if ro1Field w = 0 ∧ low14Field w = 0 then .instr (make (rdField w)) else .reservedField
  | none =>
  if op3Field w = 0b111010 then
    if bit29Field w then .reservedField else .needs (operandField w) (trapRow (condField w) (ro1Field w))
  else if op3Field w = 0b101000 then
    match readSelected (ro1Field w) with
    | some make => if low14Field w = 0 then .instr (make (rdField w)) else .reservedField
    | none => .unassigned
  else if op3Field w = 0b110000 then
    match writeSelected (rdField w) with
    | some make => .needs (operandField w) (make (ro1Field w))
    | none => .unassigned
  else .unassigned

/-- op = 11 (R120): loads and stores. -/
def decodeOp11 (w : Word) : Decoded :=
  match memoryRow (op3Field w) with
  | some make => .needs (operandField w) (make (rdField w) (ro1Field w))
  | none => .unassigned

/-- The decoder (R134): a function of the word alone, in every mode. -/
def decode (w : Word) : Decoded :=
  if opField w = 0b01 then .instr (.call (disp30Field w))
  else if opField w = 0b00 then decodeFormat2 w
  else if opField w = 0b10 then decodeOp10 w
  else decodeOp11 w

/-! ### Words as bytes (R73, R74) -/

/-- The word whose byte at the lowest address is `b0` (R74: little-endian; log entry 13). -/
def wordOfBytes (b0 b1 b2 b3 : Byte) : Word := b3 ++ b2 ++ b1 ++ b0

/-- Byte `k` of a word, the byte at the word's address plus `k` (R73). -/
def byteOfWord (w : Word) (k : Nat) : Byte := w.extractLsb' (8 * k) 8

/-- The bytes of a word as memory holds them, the lowest address first (R74). -/
def bytesOfWord (w : Word) : List Byte := [byteOfWord w 0, byteOfWord w 1, byteOfWord w 2, byteOfWord w 3]

/-- Decode the first instruction of a run of bytes, and the bytes after it; every instruction has four bytes (R110).
Nothing when fewer than four bytes are left. -/
def decodeBytes : List Byte → Option (Decoded × List Byte)
  | b0 :: b1 :: b2 :: b3 :: rest => some (decode (wordOfBytes b0 b1 b2 b3), rest)
  | _ => none

/-- The low `nbits` bits of an instruction of the table as a word, every bit above them zero. -/
def tableWord (nbits w : Nat) : Word := BitVec.ofNat 32 (w % 2 ^ nbits)

/-- The instruction the decoder reads from an instruction whose bits are `w`, numbered as `spec/opcode_table.json`
numbers them. The table's instructions are one 32-bit word, bit 0 its least significant. -/
def decodeTableWord (nbits w : Nat) : Option Instr :=
  match decodeBytes (bytesOfWord (tableWord nbits w)) with
  | some (.instr i, _) => some i
  | _ => none

/-! ### The encoder (R111 to R115) -/

/-- Bits 13:0 of a format-3 word (R114). -/
def operandBits : Operand2 → BitVec 14
  | .reg ro2 => 0#1 ++ 0#8 ++ ro2
  | .imm const13 => 1#1 ++ const13

/-- Bits 13:0 of a shift, with zeros in the bits an immediate shift ignores (R115). -/
def shiftBits : ShiftCount → BitVec 14
  | .reg ro2 => 0#1 ++ 0#8 ++ ro2
  | .imm const5 => 1#1 ++ 0#8 ++ const5

/-- A format-3 word (R114). -/
def word3 (op : BitVec 2) (rd : RegNum) (op3 : BitVec 6) (ro1 : RegNum) (low : BitVec 14) : Word :=
  op ++ rd ++ op3 ++ ro1 ++ low

/-- The word of a branch (R113, R230). -/
def branchWord (c : Cond) (a : Bool) (disp22 : BitVec 22) : Word :=
  0b00#2 ++ BitVec.ofBool a ++ c.code ++ 0b010#3 ++ disp22

/-- The word of a software trap (R115, R285). -/
def trapWord (c : Cond) (ro1 : RegNum) (o : Operand2) : Word :=
  0b10#2 ++ 0#1 ++ c.code ++ 0b111010#6 ++ ro1 ++ operandBits o

/-- The word of a well-formed instruction. -/
def encode : Instr → Word
  | .ld rd ro1 o => word3 0b11 rd 0b000000 ro1 (operandBits o)
  | .ldub rd ro1 o => word3 0b11 rd 0b000001 ro1 (operandBits o)
  | .lduh rd ro1 o => word3 0b11 rd 0b000010 ro1 (operandBits o)
  | .ldsb rd ro1 o => word3 0b11 rd 0b001001 ro1 (operandBits o)
  | .ldsh rd ro1 o => word3 0b11 rd 0b001010 ro1 (operandBits o)
  | .st rd ro1 o => word3 0b11 rd 0b000100 ro1 (operandBits o)
  | .stb rd ro1 o => word3 0b11 rd 0b000101 ro1 (operandBits o)
  | .sth rd ro1 o => word3 0b11 rd 0b000110 ro1 (operandBits o)
  | .sethi rd const22 => 0b00#2 ++ rd ++ 0b100#3 ++ const22
  | .nop => 0x01000000
  | .and rd ro1 o => word3 0b10 rd 0b000001 ro1 (operandBits o)
  | .andcc rd ro1 o => word3 0b10 rd 0b010001 ro1 (operandBits o)
  | .or rd ro1 o => word3 0b10 rd 0b000010 ro1 (operandBits o)
  | .orcc rd ro1 o => word3 0b10 rd 0b010010 ro1 (operandBits o)
  | .xor rd ro1 o => word3 0b10 rd 0b000011 ro1 (operandBits o)
  | .xorcc rd ro1 o => word3 0b10 rd 0b010011 ro1 (operandBits o)
  | .andn rd ro1 o => word3 0b10 rd 0b000101 ro1 (operandBits o)
  | .andncc rd ro1 o => word3 0b10 rd 0b010101 ro1 (operandBits o)
  | .orn rd ro1 o => word3 0b10 rd 0b000110 ro1 (operandBits o)
  | .orncc rd ro1 o => word3 0b10 rd 0b010110 ro1 (operandBits o)
  | .xnor rd ro1 o => word3 0b10 rd 0b000111 ro1 (operandBits o)
  | .xnorcc rd ro1 o => word3 0b10 rd 0b010111 ro1 (operandBits o)
  | .add rd ro1 o => word3 0b10 rd 0b000000 ro1 (operandBits o)
  | .addcc rd ro1 o => word3 0b10 rd 0b010000 ro1 (operandBits o)
  | .sub rd ro1 o => word3 0b10 rd 0b000100 ro1 (operandBits o)
  | .subcc rd ro1 o => word3 0b10 rd 0b010100 ro1 (operandBits o)
  | .umul rd ro1 o => word3 0b10 rd 0b001010 ro1 (operandBits o)
  | .umulcc rd ro1 o => word3 0b10 rd 0b011010 ro1 (operandBits o)
  | .smul rd ro1 o => word3 0b10 rd 0b001011 ro1 (operandBits o)
  | .smulcc rd ro1 o => word3 0b10 rd 0b011011 ro1 (operandBits o)
  | .udiv rd ro1 o => word3 0b10 rd 0b001110 ro1 (operandBits o)
  | .udivcc rd ro1 o => word3 0b10 rd 0b011110 ro1 (operandBits o)
  | .sdiv rd ro1 o => word3 0b10 rd 0b001111 ro1 (operandBits o)
  | .sdivcc rd ro1 o => word3 0b10 rd 0b011111 ro1 (operandBits o)
  | .sll rd ro1 n => word3 0b10 rd 0b100101 ro1 (shiftBits n)
  | .srl rd ro1 n => word3 0b10 rd 0b100110 ro1 (shiftBits n)
  | .sra rd ro1 n => word3 0b10 rd 0b100111 ro1 (shiftBits n)
  | .bn a d => branchWord .never a d
  | .be a d => branchWord .e a d
  | .ble a d => branchWord .le a d
  | .bl a d => branchWord .l a d
  | .bleu a d => branchWord .leu a d
  | .bcs a d => branchWord .cs a d
  | .bneg a d => branchWord .neg a d
  | .bvs a d => branchWord .vs a d
  | .ba a d => branchWord .always a d
  | .bne a d => branchWord .ne a d
  | .bg a d => branchWord .g a d
  | .bge a d => branchWord .ge a d
  | .bgu a d => branchWord .gu a d
  | .bcc a d => branchWord .cc a d
  | .bpos a d => branchWord .pos a d
  | .bvc a d => branchWord .vc a d
  | .jmp rd ro1 o => word3 0b10 rd 0b111000 ro1 (operandBits o)
  | .rett ro1 o => word3 0b10 0 0b111001 ro1 (operandBits o)
  | .call d => 0b01#2 ++ d
  | .save rd ro1 o => word3 0b10 rd 0b111100 ro1 (operandBits o)
  | .restore rd ro1 o => word3 0b10 rd 0b111101 ro1 (operandBits o)
  | .tn ro1 o => trapWord .never ro1 o
  | .te ro1 o => trapWord .e ro1 o
  | .tle ro1 o => trapWord .le ro1 o
  | .tl ro1 o => trapWord .l ro1 o
  | .tleu ro1 o => trapWord .leu ro1 o
  | .tcs ro1 o => trapWord .cs ro1 o
  | .tneg ro1 o => trapWord .neg ro1 o
  | .tvs ro1 o => trapWord .vs ro1 o
  | .ta ro1 o => trapWord .always ro1 o
  | .tne ro1 o => trapWord .ne ro1 o
  | .tg ro1 o => trapWord .g ro1 o
  | .tge ro1 o => trapWord .ge ro1 o
  | .tgu ro1 o => trapWord .gu ro1 o
  | .tcc ro1 o => trapWord .cc ro1 o
  | .tpos ro1 o => trapWord .pos ro1 o
  | .tvc ro1 o => trapWord .vc ro1 o
  | .rdY rd => word3 0b10 rd 0b101000 0 0
  | .rdBase rd => word3 0b10 rd 0b101000 1 0
  | .rdLimite rd => word3 0b10 rd 0b101000 2 0
  | .rdPsr rd => word3 0b10 rd 0b101001 0 0
  | .rdWim rd => word3 0b10 rd 0b101010 0 0
  | .rdTbr rd => word3 0b10 rd 0b101011 0 0
  | .wrY ro1 o => word3 0b10 0 0b110000 ro1 (operandBits o)
  | .wrBase ro1 o => word3 0b10 1 0b110000 ro1 (operandBits o)
  | .wrLimite ro1 o => word3 0b10 2 0b110000 ro1 (operandBits o)
  | .wrPsr ro1 o => word3 0b10 0 0b110001 ro1 (operandBits o)
  | .wrWim ro1 o => word3 0b10 0 0b110010 ro1 (operandBits o)
  | .wrTbr ro1 o => word3 0b10 0 0b110011 ro1 (operandBits o)

end Sys2Proof
end

