-- ==== Sys2Proof/Config.lean ====
section
/-! DEFINITION. What one instance of the machine fixes (the parameters of `00_scope.md` R7 and of
`92_eei_decisions.md`), and the FREE VALUES: the constants with no body, of which nothing can be proved but that they
depend on their arguments. -/
namespace Sys2Proof.Config

/-- The default of `RESET_PC`, the address of the first instruction after reset (decision D33; R51, R460, R461); the
parameter itself is `Platform.resetPc`. DESIGN CHOICE, log entry 1. -/
def resetPc : Word := 0x00000000

/-- The default of `RESET_PSR`, the status register after reset: S = 1 and every other field 0 (decision D33; R51, R460,
R461); the parameter itself is `Platform.resetPsr`. DESIGN CHOICE, log entry 1. -/
def resetPsr : Word := 0x00000080

/-- What a byte of memory that no entry lists reads as. DESIGN CHOICE (unsafe), log entry 2: the spec leaves
`MEM_IMAGE` to the caller (R7, D2). -/
def unlistedByte : Byte := 0

/-- `MEM_RANGE`, first absolute address (R7, R76). DESIGN CHOICE, log entry 3. -/
def memFirst : Nat := 0

/-- `MEM_RANGE`, last absolute address, inclusive as in the example of R349. DESIGN CHOICE, log entry 3. -/
def memLast : Nat := 0xFFFFFFFF

/-- `MEM_SIZE` in bytes (R7, R76). DESIGN CHOICE, log entry 3. -/
def memSize : Nat := 0x100000000

/-- `MEM_IMAGE`, the contents reset gives the memory, as the bytes that differ from `unlistedByte` (R76, R460).
DESIGN CHOICE, log entry 2. -/
def memImage : List Host.Cell := []

/-- The default of `STOP_PC` (R454, D34): no stop address. It is the caller's argument of a run, not hardware; no step
reads it (log entry 35). -/
def stopPc : Option Word := none

/-- What a division leaves: the value of rd, of Y, and the four condition codes the `cc` forms write
(the result type of `DIV_OVERFLOW`, R206). -/
structure DivValue where
  quotient : Word
  remainder : Word
  n : Bool
  z : Bool
  v : Bool
  c : Bool
  deriving DecidableEq, Repr, Inhabited

/-- FREE VALUE, log entry 8. `DIV_OVERFLOW(signed, D, d)` of R206 (D16, U3): what a division leaves when its quotient
does not fit in 32 bits. It depends on its arguments alone and nothing else may be assumed of it. -/
opaque divOverflow (signed : Bool) (dividend : BitVec 64) (divisor : Word) : DivValue

/-- One bus cycle that a device answered: a read of a word, or a write of the lanes `bsel` of a word (R72, R100). -/
inductive DeviceCycle where
  | read (word : BitVec 30)
  | write (word : BitVec 30) (bsel : BitVec 4) (data : Word)
  deriving DecidableEq, Repr

/-- FREE VALUE, log entry 6. The word a device drives on a read cycle (R100, D39, U7), given the device cycles made so
far (newest first) and the word index read: every read of a run has its own argument, so nothing links two reads. -/
opaque deviceWord (log : List DeviceCycle) (word : BitVec 30) : Word

end Sys2Proof.Config
end

