-- ==== Sys2Proof/Machine/Registers.lean ====
section
/-! DEFINITION. The register storage and the two packed registers: the arrays `G` and `R` (`10_state.md` R20), PSR
(R35) and TBR (R46), each with the 32-bit word that software sees. -/
namespace Sys2Proof.Machine

/-- An array of `n` words (REGGLOB, REGBLOCK: R20, R359, R360). -/
structure RegArray (n : Nat) where
  cells : List Word
  size : cells.length = n
  deriving DecidableEq, Repr

/-- All zero: "Reset deja todo en 0" (R51). -/
def RegArray.zero (n : Nat) : RegArray n :=
  { cells := List.replicate n 0, size := List.length_replicate }

/-- Element `i`. -/
def RegArray.get {n : Nat} (r : RegArray n) (i : Fin n) : Word :=
  r.cells[i.val]'(by rw [r.size]; exact i.isLt)

/-- Element `i` replaced. -/
def RegArray.set {n : Nat} (r : RegArray n) (i : Fin n) (v : Word) : RegArray n :=
  { cells := r.cells.set i.val v, size := by rw [List.length_set]; exact r.size }

/-- PSR (R35) as its fields. Bits 31..24 and 19..12 are hardwired 0 (R43, decision D25; log entry 23), so no field
stands for them. -/
structure Psr where
  /-- bit 23, Negative -/
  n : Bool
  /-- bit 22, Zero -/
  z : Bool
  /-- bit 21, Overflow -/
  v : Bool
  /-- bit 20, Carry -/
  c : Bool
  /-- bits 11..8, Processor Interrupt Level (R37) -/
  pil : BitVec 4
  /-- bit 7, State: supervisor (R38) -/
  s : Bool
  /-- bit 6, Previous State (R39) -/
  ps : Bool
  /-- bit 5, Enable Trap (R40) -/
  et : Bool
  /-- bits 4..0, Current Window Pointer (R42) -/
  cwp : BitVec 5
  deriving DecidableEq, Repr

/-- PSR as `rd %psr` returns it (R35, R316). -/
def Psr.toWord (p : Psr) : Word :=
  0#8 ++ BitVec.ofBool p.n ++ BitVec.ofBool p.z ++ BitVec.ofBool p.v ++ BitVec.ofBool p.c ++ 0#8 ++ p.pil
    ++ BitVec.ofBool p.s ++ BitVec.ofBool p.ps ++ BitVec.ofBool p.et ++ p.cwp

/-- PSR after a write of `w` (R323): the reserved bits of `w` are ignored (R43). -/
def Psr.ofWord (w : Word) : Psr :=
  { n := w.getLsbD 23, z := w.getLsbD 22, v := w.getLsbD 21, c := w.getLsbD 20,
    pil := w.extractLsb' 8 4, s := w.getLsbD 7, ps := w.getLsbD 6, et := w.getLsbD 5, cwp := w.extractLsb' 0 5 }

/-- TBR (R46) as its fields; bits 3..0 are the constant 0000. -/
structure Tbr where
  /-- bits 31..12, trap base address -/
  tba : BitVec 20
  /-- bits 11..4, type of the last trap taken -/
  tt : BitVec 8
  deriving DecidableEq, Repr

/-- TBR as `rd %tbr` returns it, the address of the entry of trap type `tt` (R46, R318, R421). -/
def Tbr.toWord (t : Tbr) : Word := t.tba ++ t.tt ++ 0#4

/-- TBR after a write of `w` (R325): bits 31..12 only (decision D25; log entry 23). -/
def Tbr.write (t : Tbr) (w : Word) : Tbr := { t with tba := w.extractLsb' 12 20 }

end Sys2Proof.Machine
end

