-- ==== Sys2Proof/Machine/Flags.lean ====
section
/-! DEFINITION. The condition codes: how the `cc` instructions compute them (`42_logic_arith.md` R176 to R180) and how
branches and software traps test them (`10_state.md` R41). -/
namespace Sys2Proof.Machine

/-- The four condition codes (R35, R36). -/
structure CondCodes where
  n : Bool
  z : Bool
  v : Bool
  c : Bool
  deriving DecidableEq, Repr

/-- PSR with its condition codes replaced (R176). -/
def Psr.setCodes (p : Psr) (f : CondCodes) : Psr := { p with n := f.n, z := f.z, v := f.v, c := f.c }

/-- The logical instructions (R177). -/
def codesLogic (r : Word) : CondCodes := { n := r.msb, z := r == 0, v := false, c := false }

/-- `addcc` (R178): C is the carry out of bit 31, V a signed sum outside 32 bits. -/
def codesAdd (a b : Word) : CondCodes :=
  { n := (a + b).msb
    z := a + b == 0
    v := decide (a.toInt + b.toInt < -2 ^ 31 ∨ 2 ^ 31 - 1 < a.toInt + b.toInt)
    c := decide (2 ^ 32 ≤ a.toNat + b.toNat) }

/-- `subcc` (R178): C is the borrow (decision D14; log entry 14), V a signed difference outside 32 bits. -/
def codesSub (a b : Word) : CondCodes :=
  { n := (a - b).msb
    z := a - b == 0
    v := decide (a.toInt - b.toInt < -2 ^ 31 ∨ 2 ^ 31 - 1 < a.toInt - b.toInt)
    c := decide (a.toNat < b.toNat) }

/-- `umulcc`, `smulcc` (R179), from the low word of the product. -/
def codesMul (low : Word) : CondCodes := { n := low.msb, z := low == 0, v := false, c := false }

/-- `cond_true` (R41, R346). -/
def condTrue (c : Cond) (p : Psr) : Bool :=
  match c with
  | .never => false
  | .e => p.z
  | .le => p.z || (p.n ^^ p.v)
  | .l => p.n ^^ p.v
  | .leu => p.c || p.z
  | .cs => p.c
  | .neg => p.n
  | .vs => p.v
  | .always => true
  | .ne => !p.z
  | .g => !(p.z || (p.n ^^ p.v))
  | .ge => !(p.n ^^ p.v)
  | .gu => !(p.c || p.z)
  | .cc => !p.c
  | .pos => !p.n
  | .vc => !p.v

end Sys2Proof.Machine
end

