-- ==== Sys2Proof/Machine/Memory.lean ====
section
/-! DEFINITION. The memory component as data (`20_memory.md` R72 to R76, `50_components_and_bus.md` R355): a list of
(address, byte) pairs in one canonical form, read and written by words with byte lanes. -/
namespace Sys2Proof.Machine

/-- Memory: the bytes that differ from what an unlisted address reads as (log entry 2). -/
abbrev Memory := List Host.Cell

/-- The byte at an absolute address. -/
def Memory.read : Memory → Nat → Byte
  | [], _ => Config.unlistedByte
  | (k, b) :: rest, a => if k = a then b else Memory.read rest a

/-- No entry for address `a`. -/
def Memory.erase : Memory → Nat → Memory
  | [], _ => []
  | (k, b) :: rest, a => if k = a then Memory.erase rest a else (k, b) :: Memory.erase rest a

/-- An entry put in its place in the rising order. -/
def Memory.insert : Memory → Nat → Byte → Memory
  | [], a, v => [(a, v)]
  | (k, b) :: rest, a, v => if a < k then (a, v) :: (k, b) :: rest else (k, b) :: Memory.insert rest a v

/-- The byte at `a` becomes `v`; the value of an unlisted address leaves no entry. -/
def Memory.write (m : Memory) (a : Nat) (v : Byte) : Memory :=
  if v = Config.unlistedByte then Memory.erase m a else Memory.insert (Memory.erase m a) a v

/-- The canonical form: addresses strictly rising, inside the 32-bit space, and no entry equal to what an unlisted
address reads as. -/
abbrev Memory.wf (m : Memory) : Prop :=
  m.Pairwise (fun x y => x.1 < y.1) ∧ ∀ x ∈ m, x.1 < 2 ^ 32 ∧ x.2 ≠ Config.unlistedByte

/-- The absolute address of byte lane `k` of word `w` (R73). -/
def laneAddress (w : BitVec 30) (k : Nat) : Nat := 4 * w.toNat + k

/-- `M[w]`: byte `k` of the word is the byte at address `4w + k` (R73). -/
def Memory.readWord (m : Memory) (w : BitVec 30) : Word :=
  wordOfBytes (Memory.read m (laneAddress w 0)) (Memory.read m (laneAddress w 1))
    (Memory.read m (laneAddress w 2)) (Memory.read m (laneAddress w 3))

/-- Byte lane `k` of word `w` takes its byte of `data` when its select bit is 1 (R72, R355). -/
def Memory.writeLane (m : Memory) (w : BitVec 30) (bsel : BitVec 4) (data : Word) (k : Nat) : Memory :=
  if bsel.getLsbD k then Memory.write m (laneAddress w k) (byteOfWord data k) else m

/-- A write cycle of the memory (R72, R355): the selected lanes of `M[w]` take their bytes of `data`, the others keep
their content. -/
def Memory.writeWord (m : Memory) (w : BitVec 30) (bsel : BitVec 4) (data : Word) : Memory :=
  Memory.writeLane (Memory.writeLane (Memory.writeLane (Memory.writeLane m w bsel data 0) w bsel data 1)
    w bsel data 2) w bsel data 3

end Sys2Proof.Machine
end

