-- ==== Sys2Proof/Machine/Platform.lean ====
section
/-! DEFINITION. What surrounds the processor: who answers a bus cycle (`20_memory.md` R76, R93, R100), and what the
environment does between and inside steps (`00_scope.md` R12, `20_memory.md` R99, `60_exceptions.md` R433). -/
namespace Sys2Proof.Machine

/-- One device of `DEVICE_MAP` (R100, R349): the absolute addresses `first` to `last` (inclusive); a cycle there ends
with DTACK when `acks` holds, with ERR when not (R93: the class of addresses that answer ERR). -/
structure DeviceRange where
  first : Nat
  last : Nat
  acks : Bool
  deriving DecidableEq, Repr

/-- The parameters of one machine instance (R7, and the table of `92_eei_decisions.md`): `MEM_RANGE` = `memFirst` to
`memLast` (inclusive), `MEM_SIZE` bytes from `memFirst`, `MEM_IMAGE`, `DEVICE_MAP`, and `RESET_PC` and `RESET_PSR`
(R461). No step changes them (log entries 1, 3). -/
structure Platform where
  memFirst : Nat
  memLast : Nat
  memSize : Nat
  image : Memory
  devices : List DeviceRange
  resetPc : Word
  resetPsr : Word
  deriving DecidableEq, Repr

/-- Who answers a bus cycle to a word (R93). -/
inductive BusAnswer where
  /-- the memory, with DTACK -/
  | memory
  /-- a device, with DTACK -/
  | device
  /-- a component, with ERR -/
  | error
  /-- nobody: the cycle never ends -/
  | nobody
  deriving DecidableEq, Repr

/-- The answer of the first device whose range holds the address; nobody when there is none. -/
def deviceAnswer : List DeviceRange → Nat → BusAnswer
  | [], _ => .nobody
  | d :: rest, a =>
    if d.first ≤ a ∧ a ≤ d.last then (if d.acks then .device else .error) else deviceAnswer rest a

/-- Who answers a cycle to word `w`, by the address of the word's first byte (R93): the memory inside `MEM_RANGE`, with
ERR beyond `MEM_SIZE`; else a device; else nobody. Where ranges overlap the memory answers first (DESIGN CHOICE, log
entry 43). -/
def Platform.answer (p : Platform) (w : BitVec 30) : BusAnswer :=
  if p.memFirst ≤ laneAddress w 0 ∧ laneAddress w 0 ≤ p.memLast then
    if laneAddress w 0 < p.memFirst + p.memSize then .memory else .error
  else deviceAnswer p.devices (laneAddress w 0)

/-- A write cycle of another bus master (R99). -/
structure MasterWrite where
  word : BitVec 30
  bsel : BitVec 4
  data : Word
  deriving DecidableEq, Repr

/-- What the environment may do between two steps (R12, R99, R433, R460). -/
inductive EnvEvent where
  /-- the levels of IRQ1..IRQ15 become `lines` (line n is bit n-1) -/
  | irqLines (lines : BitVec 15)
  /-- another master writes -/
  | masterWrite (m : MasterWrite)
  /-- RESET is asserted -/
  | reset
  deriving DecidableEq, Repr

/-- The environment's part of one step: the events before the step's interrupt check, and the other masters' writes
between the step's fetch and its data access (R99; log entry 5). -/
structure EnvTurn where
  before : List EnvEvent
  midway : List MasterWrite
  deriving DecidableEq, Repr

end Sys2Proof.Machine
end

