-- ==== Sys2Proof/Machine/State.lean ====
section
/-! DEFINITION. The state of the machine (`10_state.md`), its value after reset (R51, R460), and the reasons a step can
stop without a next state. -/
namespace Sys2Proof.Machine

/-- Everything the spec gives the machine, and two fields of the model's own (`inputs`, `deviceLog`). -/
structure State where
  /-- `G[0..7]`, the global registers (R20, R21) -/
  glob : RegArray 8
  /-- `R[0..511]`, the windowed registers (R20, R23) -/
  win : RegArray 512
  /-- program address of the instruction of this step (R31) -/
  pc : Word
  /-- program address of the instruction after it (R31) -/
  npc : Word
  /-- Processor Status Register (R35) -/
  psr : Psr
  /-- Y, of multiply and divide (R44) -/
  y : Word
  /-- Window Invalid Mask, bit w for window w (R45) -/
  wim : Word
  /-- Trap Base Register (R46) -/
  tbr : Tbr
  /-- BASE (R47) -/
  base : Word
  /-- LIMITE (R48) -/
  limite : Word
  /-- the processor stopped at a trap with ET = 0 (R50, R424) -/
  errorMode : Bool
  /-- the levels of IRQ1..IRQ15, line n in bit n-1 (R50, R430) -/
  irq : BitVec 15
  /-- the memory words (R72, R76) -/
  mem : Memory
  /-- the configuration of this machine (R7); no step changes it -/
  platform : Platform
  /-- MODEL: what the environment will do, one turn a step (R12, R99, R433; log entry 5) -/
  inputs : List EnvTurn
  /-- MODEL: the cycles devices have answered, newest first (R100; log entries 6, 7) -/
  deviceLog : List Config.DeviceCycle
  deriving DecidableEq, Repr

/-- Why the machine has no next step. Both are among the spec's own ends of a run (R454), and safe: the hardware does not
go on either. The state a run ends in is `RunResult.state`. -/
inductive Fault where
  /-- The processor is in error mode and no input is left that could reset it (R404 line 0, R424). Raised by the step. Safe. -/
  | errorMode
  /-- A bus cycle that nobody answers (R93, decision D7). Raised by a fetch, a load or a store. Safe. -/
  | busNoAnswer
  deriving DecidableEq, Repr

/-- Why a word or an access has no meaning in the model. -/
inductive Refusal where
  /-- The instruction has no meaning yet. Raised by an arm of `exec`. Safe. -/
  | notModelled (mnemonic : String)
  /-- The word has a non-zero bit in a field that must be zero (R132, decision D11, U2): the spec gives it no behaviour.
  Raised by the step. Safe. -/
  | reservedField
  /-- An access in user mode while BASE is not a multiple of 4 (U9): the spec gives it no behaviour. Raised by a fetch, a
  load or a store. Safe. -/
  | misalignedBase
  deriving DecidableEq, Repr

/-- The parameters `State.reset` takes: the defaults (log entries 1, 2, 3). -/
def Platform.default : Platform :=
  { memFirst := Config.memFirst, memLast := Config.memLast, memSize := Config.memSize, image := Config.memImage,
    devices := [], resetPc := Config.resetPc, resetPsr := Config.resetPsr }

/-- The machine with these parameters right after reset (R51, R460, R461): what the source gives, `RESET_PC` and
`RESET_PSR` as the parameters say, and 0 in Y, WIM, TBR, BASE and LIMITE (decision D33, log entry 1). -/
def Platform.resetState (p : Platform) : State :=
  { glob := RegArray.zero 8
    win := RegArray.zero 512
    pc := p.resetPc
    npc := p.resetPc + 4
    psr := Psr.ofWord p.resetPsr
    y := 0
    wim := 0
    tbr := { tba := 0, tt := 0 }
    base := 0
    limite := 0
    errorMode := false
    irq := 0
    mem := p.image
    platform := p
    inputs := []
    deviceLog := [] }

/-- The machine right after reset, with the default parameters (R51, R460). -/
def State.reset : State := Platform.default.resetState

end Sys2Proof.Machine
end

