-- ==== Sys2Proof/Machine/Traps.lean ====
section
/-! DEFINITION. The traps the hardware can take (`60_exceptions.md` R401): their types and their priorities. -/
namespace Sys2Proof.Machine

/-- Every trap of the table of R401, named as there. -/
inductive TrapType where
  | instructionAccessException
  | illegalInstruction
  | privilegedInstruction
  | windowOverflow
  | windowUnderflow
  | addressNotAligned
  | dataAccessException
  | instructionAccessError
  | dataAccessError
  | divisionByZero
  | dataStoreError
  /-- `t<cond>` with trap number TN (R415) -/
  | trapInstruction (tn : BitVec 7)
  /-- IRQ line n, n = 1..15 (R416) -/
  | interruptLevel (n : BitVec 4)
  deriving DecidableEq, Repr

/-- The trap type tt (R401). -/
def TrapType.code : TrapType → BitVec 8
  | .instructionAccessException => 0x01
  | .illegalInstruction => 0x02
  | .privilegedInstruction => 0x03
  | .windowOverflow => 0x05
  | .windowUnderflow => 0x06
  | .addressNotAligned => 0x07
  | .dataAccessException => 0x09
  | .instructionAccessError => 0x21
  | .dataAccessError => 0x29
  | .divisionByZero => 0x2A
  | .dataStoreError => 0x2B
  | .trapInstruction tn => 1#1 ++ tn
  | .interruptLevel n => 1#4 ++ n

/-- The priority number (R401); a smaller number is a higher priority (R403, decision D28; log entry 28). The order of
the checks of one step (R404) agrees with it. -/
def TrapType.priority : TrapType → Nat
  | .dataStoreError => 2
  | .instructionAccessError => 3
  | .instructionAccessException => 5
  | .privilegedInstruction => 6
  | .illegalInstruction => 7
  | .windowOverflow => 9
  | .windowUnderflow => 9
  | .addressNotAligned => 10
  | .dataAccessError => 12
  | .dataAccessException => 13
  | .divisionByZero => 15
  | .trapInstruction _ => 16
  | .interruptLevel n => 32 - n.toNat

end Sys2Proof.Machine
end

