-- ==== Sys2Proof/Machine/Ops.lean ====
section
/-! DEFINITION. The named operations every meaning is built from: the visible registers (`10_state.md` R23 to R25), the
program counters (R32, R33), bus cycles and the access primitives (`20_memory.md` R80 to R93), taking a trap and returning
from one (`60_exceptions.md` R420, R424, `45_jump_rett_call.md` R264), interrupt acceptance (R431), the environment. -/
namespace Sys2Proof.Machine

/-- What an instruction's step answers. -/
abbrev Result := Host.Outcome State Fault Refusal

/-! ### Visible registers -/

/-- The place in `R` of visible register `i` (8..31) of window `cwp` (R23). -/
def windowIndex (cwp : BitVec 5) (i : RegNum) : Fin 512 :=
  ⟨(cwp.toNat * 16 + i.toNat - 8) % 512, Nat.mod_lt _ (by decide)⟩

/-- The place in `G` of visible register `i` (0..7) (R23, R350: GSEL is the low three bits of the number). -/
def globalIndex (i : RegNum) : Fin 8 := ⟨i.toNat % 8, Nat.mod_lt _ (by decide)⟩

/-- `x[i]` (R25). -/
def State.reg (s : State) (i : RegNum) : Word :=
  if i = 0 then 0
  else if i.toNat < 8 then s.glob.get (globalIndex i)
  else s.win.get (windowIndex s.psr.cwp i)

/-- `x[i] <- v` (R24), in the window of the moment of the write. -/
def State.setReg (s : State) (i : RegNum) (v : Word) : State :=
  if i = 0 then s
  else if i.toNat < 8 then { s with glob := s.glob.set (globalIndex i) v }
  else { s with win := s.win.set (windowIndex s.psr.cwp i) v }

/-- The window pointer moved (R27). -/
def State.setCwp (s : State) (w : BitVec 5) : State := { s with psr := { s.psr with cwp := w } }

/-- The condition codes replaced (R36). -/
def State.setCodes (s : State) (f : CondCodes) : State := { s with psr := s.psr.setCodes f }

/-! ### Program counters -/

/-- The end of an instruction that is no control transfer (R32). -/
def State.advance (s : State) : State := { s with pc := s.npc, npc := s.npc + 4 }

/-- The end of a taken control transfer (R33): the delay instruction, then the target. -/
def State.jumpTo (s : State) (target : Word) : State := { s with pc := s.npc, npc := target }

/-- An untaken branch with the annul bit set (R234): the delay instruction is skipped. -/
def State.annul (s : State) : State := { s with pc := s.npc + 4, npc := s.npc + 8 }

/-- The end of an instruction whose one result goes to `rd` (R181). -/
def State.result (s : State) (rd : RegNum) (r : Word) : Result := .next ((s.setReg rd r).advance)

/-- The end of a `cc` instruction: the result to `rd` and the condition codes (R176, R181), both written also when
`rd` is 0. -/
def State.resultCodes (s : State) (rd : RegNum) (r : Word) (f : CondCodes) : Result :=
  .next (((s.setReg rd r).setCodes f).advance)

/-! ### Traps -/

/-- Trap entry (R420) with trap type `t`, the trapped counters being the state's own: the window moves down without a
WIM test, traps are disabled, S is kept in PS, the counters are saved in `%l1` and `%l2` of the new window, supervisor
mode is set, and the machine goes on at the table's entry for `t` (R421). Log entries 27, 41. -/
def State.takeTrap (s : State) (t : TrapType) : State :=
  let newWindow := { s with psr := { s.psr with cwp := s.psr.cwp - 1, et := false, ps := s.psr.s } }
  let saved := (newWindow.setReg 17 s.pc).setReg 18 s.npc
  let tbr := { s.tbr with tt := t.code }
  { saved with
    psr := { saved.psr with s := true }
    tbr := tbr
    pc := tbr.toWord
    npc := tbr.toWord + 4 }

/-- `raise T` for a synchronous trap (an interrupt is not raised: `cycle` enters it, when ET = 1, by `takeTrap`): entry when traps are enabled (R420); when they are not, the processor goes into
error mode and nothing else changes (R424; log entry 12). -/
def raise (t : TrapType) (s : State) : Result :=
  if s.psr.et then .next (s.takeTrap t) else .next { s with errorMode := true }

/-- The effect of `rett` once its checks have passed (R264): back to the window above, traps enabled, S restored from PS,
a delayed transfer to `dir`. -/
def State.returnFromTrap (s : State) (dir : Word) : State :=
  { s with
    psr := { s.psr with cwp := s.psr.cwp + 1, et := true, s := s.psr.ps }
    pc := s.npc
    npc := dir }

/-- The check before a privileged instruction (R441): `k` in supervisor mode, the trap `privileged_instruction` in user
mode. -/
def privileged (s : State) (k : Result) : Result :=
  if s.psr.s then k else raise .privilegedInstruction s

/-! ### Addresses -/

/-- A multiple of 4. -/
def wordAligned (a : Word) : Bool := a.extractLsb' 0 2 == 0

/-- Whether an access of `n` bytes at program address `p` is permitted (R81): always in supervisor mode, below LIMITE in
user mode, without wrap-around. -/
def State.permitted (s : State) (p : Word) (n : Nat) : Bool :=
  s.psr.s || decide (p.toNat + n ≤ s.limite.toNat)

/-- The absolute address of program address `p` (R80). -/
def State.absolute (s : State) (p : Word) : Word := if s.psr.s then p else p + s.base

/-- Whether relocation keeps alignment (U9; log entry 10). -/
def State.baseUsable (s : State) : Bool := s.psr.s || wordAligned s.base

/-- The word an absolute address lies in (R72). -/
def wordIndex (a : Word) : BitVec 30 := a.extractLsb' 2 30

/-- The byte lane of an address in its word (R73). -/
def lane (a : Word) : BitVec 2 := a.extractLsb' 0 2

/-! ### Bus cycles -/

/-- How a bus cycle ends (R92, R93, R386). -/
inductive BusReply (α : Type) where
  /-- DTACK: the cycle is done -/
  | dtack (v : α) (s : State)
  /-- ERR -/
  | err
  /-- it never ends -/
  | noAnswer

/-- One read cycle of word `w` (R72, R93, R100). A device drives a free word (log entry 6). -/
def busRead (s : State) (w : BitVec 30) : BusReply Word :=
  match s.platform.answer w with
  | .memory => .dtack (s.mem.readWord w) s
  | .device => .dtack (Config.deviceWord s.deviceLog w) { s with deviceLog := .read w :: s.deviceLog }
  | .error => .err
  | .nobody => .noAnswer

/-- One write cycle to the selected lanes of word `w` (R72, R93, R100). -/
def busWrite (s : State) (w : BitVec 30) (bsel : BitVec 4) (data : Word) : BusReply Unit :=
  match s.platform.answer w with
  | .memory => .dtack () { s with mem := s.mem.writeWord w bsel data }
  | .device => .dtack () { s with deviceLog := .write w bsel data :: s.deviceLog }
  | .error => .err
  | .nobody => .noAnswer

/-! ### Access primitives -/

/-- The three access widths (R87; ALIGNL's size code, R342). -/
inductive Size where
  | byte | half | word
  deriving DecidableEq, Repr

/-- The width in bytes (R87). -/
def Size.bytes : Size → Nat
  | .byte => 1
  | .half => 2
  | .word => 4

/-- The low bits of a word that an access of this width carries. -/
def Size.mask : Size → Word
  | .byte => 0x000000FF
  | .half => 0x0000FFFF
  | .word => 0xFFFFFFFF

/-- The byte selects of an access of this width in lane 0. -/
def Size.lanes : Size → BitVec 4
  | .byte => 0b0001
  | .half => 0b0011
  | .word => 0b1111

/-- What an access primitive answers: a value and the state after the cycle; a trap; or a stop. -/
inductive Access (α : Type) where
  | done (v : α) (s : State)
  | trap (t : TrapType)
  | fault (f : Fault)
  | refused (r : Refusal)

/-- Goes on with a completed access; a trap is raised in the state `s` the instruction began in, so that it writes
nothing (R152(b), R423). -/
def Access.andThen {α : Type} (s : State) (a : Access α) (k : α → State → Result) : Result :=
  match a with
  | .done v s' => k v s'
  | .trap t => raise t s
  | .fault f => .fault f
  | .refused r => .refused r

/-- The end of a bus cycle as an access: ERR is the trap `onErr` (R92; log entry 26). -/
def BusReply.asAccess {α : Type} (b : BusReply α) (onErr : TrapType) : Access α :=
  match b with
  | .dtack v s => .done v s
  | .err => .trap onErr
  | .noAnswer => .fault .busNoAnswer

/-- Goes on with an access that is not finished: what stops the first part stops the whole. -/
def Access.bind {α β : Type} (a : Access α) (k : α → State → Access β) : Access β :=
  match a with
  | .done v s => k v s
  | .trap t => .trap t
  | .fault f => .fault f
  | .refused r => .refused r

/-- The checks before a data access of width `n` at program address `p` (R88, R89, steps 1 and 2, and U9): the trap or
the refusal that stops it, or the state unchanged. -/
def dataCheck (s : State) (p : Word) (n : Size) : Access Unit :=
  if p.toNat % n.bytes ≠ 0 then .trap .addressNotAligned
  else if !s.permitted p n.bytes then .trap .dataAccessException
  else if !s.baseUsable then .refused .misalignedBase
  else .done () s

/-- The checks before a fetch at `pc` (R90 step 1 and U9). -/
def fetchCheck (s : State) : Access Unit :=
  if !s.permitted s.pc 4 then .trap .instructionAccessException
  else if !s.baseUsable then .refused .misalignedBase
  else .done () s

/-- ALIGNL with the corrected masks (R75, R88 step 5): the bytes of the access, from the lane of its address, moved to
the low end and zero-filled. -/
def alignLoad (n : Size) (k : BitVec 2) (w : Word) : Word := (w >>> (8 * k.toNat)) &&& n.mask

/-- ALIGNS (R343) on the low bytes of the value (R89 step 4): moved to the lane of their address. -/
def alignStore (n : Size) (k : BitVec 2) (v : Word) : Word := (v &&& n.mask) <<< (8 * k.toNat)

/-- The byte selects of a store (R89 step 4): the `n` lanes from lane `k`. -/
def storeLanes (n : Size) (k : BitVec 2) : BitVec 4 := n.lanes <<< k.toNat

/-- `MemRead(p, n)` (R88), the value zero-filled to a word. -/
def memRead (s : State) (p : Word) (n : Size) : Access Word :=
  (dataCheck s p n).bind fun _ s0 =>
    ((busRead s0 (wordIndex (s0.absolute p))).asAccess .dataAccessError).bind fun w s' =>
      .done (alignLoad n (lane (s0.absolute p)) w) s'

/-- `MemWrite(p, n, v)` (R89). -/
def memWrite (s : State) (p : Word) (n : Size) (v : Word) : Access Unit :=
  (dataCheck s p n).bind fun _ s0 =>
    (busWrite s0 (wordIndex (s0.absolute p)) (storeLanes n (lane (s0.absolute p)))
      (alignStore n (lane (s0.absolute p)) v)).asAccess .dataStoreError

/-- `Fetch(pc)` (R90): the word of the instruction. -/
def fetch (s : State) : Access Word :=
  (fetchCheck s).bind fun _ s0 =>
    (busRead s0 (wordIndex (s0.absolute s0.pc))).asAccess .instructionAccessError

/-- The state with a word placed where the next fetch reads it (R90): the loading of a program from outside (R76; log
entry 31). -/
def State.withWordAtPc (s : State) (w : Word) : State :=
  { s with mem := s.mem.writeWord (wordIndex (s.absolute s.pc)) 0b1111 w }

/-! ### Interrupts -/

/-- The level of line IRQn, n = 1..15 (R430). -/
def State.irqLine (s : State) (n : Nat) : Bool := s.irq.getLsbD (n - 1)

/-- The largest line not above `n` that is at 1 and above `pil` (R431). -/
def highestLine (lines : BitVec 15) (pil : BitVec 4) : Nat → Option (BitVec 4)
  | 0 => none
  | n + 1 => if lines.getLsbD n && decide (pil.toNat < n + 1) then some (BitVec.ofNat 4 (n + 1)) else highestLine lines pil n

/-- The interrupt accepted before this step, if any (R431). -/
def State.acceptedInterrupt (s : State) : Option (BitVec 4) :=
  if s.psr.et then highestLine s.irq s.psr.pil 15 else none

/-! ### The environment -/

/-- RESET (R460): every register, the counters, the mode and the memory as this instance's parameters say (R51, R461);
the lines are the devices' (R51), the parameters and the rest of the input stay (log entry 38). -/
def State.resetAgain (s : State) : State :=
  { s.platform.resetState with irq := s.irq, inputs := s.inputs, deviceLog := s.deviceLog }

/-- A write cycle of another master (R99): memory or a device takes it; where nobody acknowledges it nothing changes. -/
def State.masterWrite (s : State) (m : MasterWrite) : State :=
  match busWrite s m.word m.bsel m.data with
  | .dtack _ s' => s'
  | _ => s

/-- One event between two steps. -/
def State.event (s : State) : EnvEvent → State
  | .irqLines lines => { s with irq := lines }
  | .masterWrite m => s.masterWrite m
  | .reset => s.resetAgain

/-- Events in order. -/
def State.events (s : State) : List EnvEvent → State
  | [] => s
  | e :: rest => (s.event e).events rest

/-- Other masters' writes in order. -/
def State.masterWrites (s : State) : List MasterWrite → State
  | [] => s
  | m :: rest => (s.masterWrite m).masterWrites rest

/-- The environment's part of this step: nothing when no input is left. -/
def State.turn (s : State) : EnvTurn :=
  match s.inputs with
  | [] => { before := [], midway := [] }
  | t :: _ => t

/-- The state in which the step's interrupt check is made: the turn is taken from the input and its events have
happened. -/
def State.beginTurn (s : State) : State :=
  ({ s with inputs := s.inputs.tail }).events s.turn.before

end Sys2Proof.Machine
end

