-- ==== Sys2Proof/Machine/Cycle.lean ====
section
/-! DEFINITION. One step of the processor (`60_exceptions.md` R404, `70_reset_and_hazards.md` R481), over a meaning `ex`
of the instructions. -/
namespace Sys2Proof.Machine

/-- Steps 3 to 5 of R404: a word decoded and executed. An unassigned word is an illegal instruction (R131, R406; log
entry 33); a word with a non-zero reserved field has no meaning (R132; log entry 9). -/
def execWord (ex : Instr → State → Result) (w : Word) (s : State) : Result :=
  match decode w with
  | .instr i => ex i s
  | .unassigned => raise .illegalInstruction s
  | .reservedField => .refused .reservedField

/-- Steps 2 to 5 of R404: the fetch, the writes that other masters make between it and the data access (R99; log entry
5), then the instruction. A trap of the fetch takes the place of the instruction. -/
def fetchAndExec (ex : Instr → State → Result) (midway : List MasterWrite) (s : State) : Result :=
  match fetch s with
  | .done w s' => execWord ex w (s'.masterWrites midway)
  | .trap t => raise t (s.masterWrites midway)
  | .fault f => .fault f
  | .refused r => .refused r

/-- A step in error mode (R404 line 0, R424; log entry 12): the processor does nothing. Other masters go on while the
input lasts; when none is left nothing can reset the machine any more, and the run has ended. -/
def errorModeStep (midway : List MasterWrite) (s : State) : Result :=
  if s.inputs.isEmpty then .fault .errorMode else .next (s.masterWrites midway)

/-- One step (R404): the environment's turn, then error mode, an interrupt (R431), or the instruction at `pc`. -/
def cycle (ex : Instr → State → Result) (s : State) : Result :=
  if s.beginTurn.errorMode then errorModeStep s.turn.midway s.beginTurn
  else
    match s.beginTurn.acceptedInterrupt with
    | some n => .next ((s.beginTurn.takeTrap (.interruptLevel n)).masterWrites s.turn.midway)
    | none => fetchAndExec ex s.turn.midway s.beginTurn

end Sys2Proof.Machine
end

