-- ==== Sys2Proof/Machine/Operands.lean ====
section
/-! DEFINITION. The operand forms (`30_encoding.md` R121 to R126). -/
namespace Sys2Proof.Machine

/-- `op2v` with the signed constant (R121): a register, or the 13-bit constant with its sign. -/
def State.op2 (s : State) : Operand2 → Word
  | .reg ro2 => s.reg ro2
  | .imm c => c.signExtend 32

/-- `op2v` of `umul`, `umulcc`, `udiv`, `udivcc` (R121, decision D13; log entry 17): the constant is unsigned. -/
def State.op2Unsigned (s : State) : Operand2 → Word
  | .reg ro2 => s.reg ro2
  | .imm c => c.setWidth 32

/-- The sum `x[ro1] + op2v` modulo 2^32 (R122, R275, R287): an effective address. -/
def State.sum (s : State) (ro1 : RegNum) (o : Operand2) : Word := s.reg ro1 + s.op2 o

/-- The count of a shift, 0..31 (R123). -/
def State.shiftCount (s : State) : ShiftCount → Nat
  | .reg ro2 => ((s.reg ro2).extractLsb' 0 5).toNat
  | .imm n => n.toNat

/-- The constant of `sethi` in its place (R124). -/
def sethiValue (const22 : BitVec 22) : Word := const22 ++ 0#10

/-- `4 * sext_22(disp22)` modulo 2^32 (R125). -/
def branchOffset (disp22 : BitVec 22) : Word := disp22.signExtend 32 * 4

/-- `4 * sext_30(disp30)` modulo 2^32 (R126). -/
def callOffset (disp30 : BitVec 30) : Word := disp30.signExtend 32 * 4

end Sys2Proof.Machine
end

