-- ==== Sys2Proof/Machine/Arith.lean ====
section
/-! DEFINITION. Addition and subtraction (`42_logic_arith.md` R175, R178, R194 to R197). -/
namespace Sys2Proof.Machine

/-- `add` (R194). -/
def execAdd (rd ro1 : RegNum) (o : Operand2) (s : State) : Result := s.result rd (s.reg ro1 + s.op2 o)

/-- `addcc` (R195, R178). -/
def execAddcc (rd ro1 : RegNum) (o : Operand2) (s : State) : Result :=
  s.resultCodes rd (s.reg ro1 + s.op2 o) (codesAdd (s.reg ro1) (s.op2 o))

/-- `sub` (R196): `x[ro1]` is the minuend. -/
def execSub (rd ro1 : RegNum) (o : Operand2) (s : State) : Result := s.result rd (s.reg ro1 - s.op2 o)

/-- `subcc` (R197, R178). -/
def execSubcc (rd ro1 : RegNum) (o : Operand2) (s : State) : Result :=
  s.resultCodes rd (s.reg ro1 - s.op2 o) (codesSub (s.reg ro1) (s.op2 o))

end Sys2Proof.Machine
end

