-- ==== Sys2Proof/Machine/Branch.lean ====
section
/-! DEFINITION. The relative branches (`44_branch.md` R230 to R252). -/
namespace Sys2Proof.Machine

/-- Every `b<cond>` (R235): a taken branch goes to `npc + 4 * disp22` after the delay instruction; an untaken one with
the annul bit skips the delay instruction, whatever its condition (decision D20; log entry 18). -/
def branch (c : Cond) (a : Bool) (disp22 : BitVec 22) (s : State) : Result :=
  if condTrue c s.psr then .next (s.jumpTo (s.npc + branchOffset disp22))
  else if a then .next s.annul
  else .next s.advance

/-- `bn` (R237). -/
def execBn (a : Bool) (disp22 : BitVec 22) (s : State) : Result := branch .never a disp22 s

/-- `be` (R239). -/
def execBe (a : Bool) (disp22 : BitVec 22) (s : State) : Result := branch .e a disp22 s

/-- `ble` (R241). -/
def execBle (a : Bool) (disp22 : BitVec 22) (s : State) : Result := branch .le a disp22 s

/-- `bl` (R243). -/
def execBl (a : Bool) (disp22 : BitVec 22) (s : State) : Result := branch .l a disp22 s

/-- `bleu` (R245). -/
def execBleu (a : Bool) (disp22 : BitVec 22) (s : State) : Result := branch .leu a disp22 s

/-- `bcs` (R247). -/
def execBcs (a : Bool) (disp22 : BitVec 22) (s : State) : Result := branch .cs a disp22 s

/-- `bneg` (R249). -/
def execBneg (a : Bool) (disp22 : BitVec 22) (s : State) : Result := branch .neg a disp22 s

/-- `bvs` (R251). -/
def execBvs (a : Bool) (disp22 : BitVec 22) (s : State) : Result := branch .vs a disp22 s

/-- `ba` (R238). -/
def execBa (a : Bool) (disp22 : BitVec 22) (s : State) : Result := branch .always a disp22 s

/-- `bne` (R240). -/
def execBne (a : Bool) (disp22 : BitVec 22) (s : State) : Result := branch .ne a disp22 s

/-- `bg` (R242). -/
def execBg (a : Bool) (disp22 : BitVec 22) (s : State) : Result := branch .g a disp22 s

/-- `bge` (R244). -/
def execBge (a : Bool) (disp22 : BitVec 22) (s : State) : Result := branch .ge a disp22 s

/-- `bgu` (R246). -/
def execBgu (a : Bool) (disp22 : BitVec 22) (s : State) : Result := branch .gu a disp22 s

/-- `bcc` (R248). -/
def execBcc (a : Bool) (disp22 : BitVec 22) (s : State) : Result := branch .cc a disp22 s

/-- `bpos` (R250). -/
def execBpos (a : Bool) (disp22 : BitVec 22) (s : State) : Result := branch .pos a disp22 s

/-- `bvc` (R252). -/
def execBvc (a : Bool) (disp22 : BitVec 22) (s : State) : Result := branch .vc a disp22 s

end Sys2Proof.Machine
end

