-- ==== Sys2Proof/Machine/Jump.lean ====
section
/-! DEFINITION. `jmp`, `rett` and `call` (`45_jump_rett_call.md` R260 to R269). -/
namespace Sys2Proof.Machine

/-- `jmp` (R261, R262): the target goes to `rd` and, delayed, to the program counter (log entry 19). -/
def execJmp (rd ro1 : RegNum) (o : Operand2) (s : State) : Result :=
  if wordAligned (s.sum ro1 o) then .next ((s.setReg rd (s.sum ro1 o)).jumpTo (s.sum ro1 o))
  else raise .addressNotAligned s

/-- `rett` (R264, R265; log entry 20): the address from the window current before the step. -/
def execRett (ro1 : RegNum) (o : Operand2) (s : State) : Result :=
  privileged s
    (if wordAligned (s.sum ro1 o) then .next (s.returnFromTrap (s.sum ro1 o)) else raise .addressNotAligned s)

/-- `call` (R268): its own address to `%o7`, a delayed transfer to `npc + 4 * disp30`. -/
def execCall (disp30 : BitVec 30) (s : State) : Result :=
  .next ((s.setReg 15 s.pc).jumpTo (s.npc + callOffset disp30))

end Sys2Proof.Machine
end

