-- ==== Sys2Proof/Machine/Logic.lean ====
section
/-! DEFINITION. The logical instructions (`42_logic_arith.md` R175 to R177, R182 to R193). -/
namespace Sys2Proof.Machine

/-- A logical instruction with suffix `cc`: the result and its condition codes (R177). -/
def logicCodes (rd : RegNum) (r : Word) (s : State) : Result := s.resultCodes rd r (codesLogic r)

/-- `and` (R182). -/
def execAnd (rd ro1 : RegNum) (o : Operand2) (s : State) : Result := s.result rd (s.reg ro1 &&& s.op2 o)

/-- `andcc` (R184). -/
def execAndcc (rd ro1 : RegNum) (o : Operand2) (s : State) : Result := logicCodes rd (s.reg ro1 &&& s.op2 o) s

/-- `or` (R183). -/
def execOr (rd ro1 : RegNum) (o : Operand2) (s : State) : Result := s.result rd (s.reg ro1 ||| s.op2 o)

/-- `orcc` (R185). -/
def execOrcc (rd ro1 : RegNum) (o : Operand2) (s : State) : Result := logicCodes rd (s.reg ro1 ||| s.op2 o) s

/-- `xor` (R186). -/
def execXor (rd ro1 : RegNum) (o : Operand2) (s : State) : Result := s.result rd (s.reg ro1 ^^^ s.op2 o)

/-- `xorcc` (R187). -/
def execXorcc (rd ro1 : RegNum) (o : Operand2) (s : State) : Result := logicCodes rd (s.reg ro1 ^^^ s.op2 o) s

/-- `andn` (R188). -/
def execAndn (rd ro1 : RegNum) (o : Operand2) (s : State) : Result := s.result rd (s.reg ro1 &&& ~~~(s.op2 o))

/-- `andncc` (R189). -/
def execAndncc (rd ro1 : RegNum) (o : Operand2) (s : State) : Result := logicCodes rd (s.reg ro1 &&& ~~~(s.op2 o)) s

/-- `orn` (R190). -/
def execOrn (rd ro1 : RegNum) (o : Operand2) (s : State) : Result := s.result rd (s.reg ro1 ||| ~~~(s.op2 o))

/-- `orncc` (R191). -/
def execOrncc (rd ro1 : RegNum) (o : Operand2) (s : State) : Result := logicCodes rd (s.reg ro1 ||| ~~~(s.op2 o)) s

/-- `xnor` (R192). -/
def execXnor (rd ro1 : RegNum) (o : Operand2) (s : State) : Result := s.result rd (s.reg ro1 ^^^ ~~~(s.op2 o))

/-- `xnorcc` (R193). -/
def execXnorcc (rd ro1 : RegNum) (o : Operand2) (s : State) : Result := logicCodes rd (s.reg ro1 ^^^ ~~~(s.op2 o)) s

end Sys2Proof.Machine
end

