-- ==== Sys2Proof/Machine/MemAccess.lean ====
section
/-! DEFINITION. Loads and stores (`40_memory_access.md` R150 to R160). Every one may have any of its three registers
equal: the address is computed from the old values (R152). -/
namespace Sys2Proof.Machine

/-- What a signed load does with the zero-filled value read (R75, R156, R157): the sign bit of its width copied upwards. -/
def signFill (n : Size) (v : Word) : Word :=
  match n with
  | .byte => (v.setWidth 8).signExtend 32
  | .half => (v.setWidth 16).signExtend 32
  | .word => v

/-- A load (R150, R152): one read at `x[ro1] + op2v`, its value to `rd`; a trap leaves every register as it was. -/
def load (n : Size) (extend : Word → Word) (rd ro1 : RegNum) (o : Operand2) (s : State) : Result :=
  (memRead s (s.sum ro1 o) n).andThen s fun v s' => s'.result rd (extend v)

/-- A store (R150, R152): one write of the low bytes of `x[rd]` at `x[ro1] + op2v`. -/
def store (n : Size) (rd ro1 : RegNum) (o : Operand2) (s : State) : Result :=
  (memWrite s (s.sum ro1 o) n (s.reg rd)).andThen s fun _ s' => .next s'.advance

/-- `ld` (R153). -/
def execLd (rd ro1 : RegNum) (o : Operand2) (s : State) : Result := load .word id rd ro1 o s

/-- `ldub` (R154: bits 8 to 31 are 0). -/
def execLdub (rd ro1 : RegNum) (o : Operand2) (s : State) : Result := load .byte id rd ro1 o s

/-- `lduh` (R155: bits 16 to 31 are 0). -/
def execLduh (rd ro1 : RegNum) (o : Operand2) (s : State) : Result := load .half id rd ro1 o s

/-- `ldsb` (R156). -/
def execLdsb (rd ro1 : RegNum) (o : Operand2) (s : State) : Result := load .byte (signFill .byte) rd ro1 o s

/-- `ldsh` (R157). -/
def execLdsh (rd ro1 : RegNum) (o : Operand2) (s : State) : Result := load .half (signFill .half) rd ro1 o s

/-- `st` (R158). -/
def execSt (rd ro1 : RegNum) (o : Operand2) (s : State) : Result := store .word rd ro1 o s

/-- `stb` (R159). -/
def execStb (rd ro1 : RegNum) (o : Operand2) (s : State) : Result := store .byte rd ro1 o s

/-- `sth` (R160). -/
def execSth (rd ro1 : RegNum) (o : Operand2) (s : State) : Result := store .half rd ro1 o s

end Sys2Proof.Machine
end

