-- ==== Sys2Proof/Machine/MulDiv.lean ====
section
/-! DEFINITION. Multiplication and division over Y (`42_logic_arith.md` R179, R180, R198 to R208). -/
namespace Sys2Proof.Machine

/-- The 64-bit unsigned product (R198). -/
def productUnsigned (a b : Word) : BitVec 64 := BitVec.ofNat 64 (a.toNat * b.toNat)

/-- The 64-bit two's complement product (R200). -/
def productSigned (a b : Word) : BitVec 64 := BitVec.ofInt 64 (a.toInt * b.toInt)

/-- The high word of a product (R198: to Y). -/
def highWord (p : BitVec 64) : Word := p.extractLsb' 32 32

/-- The low word of a product (R198: to rd). -/
def lowWord (p : BitVec 64) : Word := p.extractLsb' 0 32

/-- The end of a plain multiplication (R198, R200): the low word to `rd`, the high word to Y. -/
def State.product (s : State) (rd : RegNum) (p : BitVec 64) : Result :=
  .next { s.setReg rd (lowWord p) with y := highWord p }.advance

/-- The end of a `cc` multiplication (R199, R201): as the plain one, and the condition codes of the low word. -/
def State.productCodes (s : State) (rd : RegNum) (p : BitVec 64) : Result :=
  .next ({ s.setReg rd (lowWord p) with y := highWord p }.setCodes (codesMul (lowWord p))).advance

/-- What a division whose quotient fits leaves (R203, R205), with the condition codes of R180 (decision D17; log
entry 16). -/
def quotientValue (q m : Word) : Config.DivValue :=
  { quotient := q, remainder := m, n := q.msb, z := q == 0, v := false, c := false }

/-- `u(D)` divided by `u(d)`, d not 0 (R203): floor quotient and its remainder; where the quotient does not fit in 32
bits, the free value of R206 (log entry 8). -/
def divideUnsigned (dividend : BitVec 64) (d : Word) : Config.DivValue :=
  if dividend.toNat / d.toNat < 2 ^ 32 then
    quotientValue (BitVec.ofNat 32 (dividend.toNat / d.toNat)) (BitVec.ofNat 32 (dividend.toNat % d.toNat))
  else Config.divOverflow false dividend d

/-- `s(D)` divided by `s(d)`, d not 0 (R205): the quotient rounded toward zero (decision D15; log entry 15) and the
remainder with the dividend's sign; where the quotient does not fit, the free value of R206. -/
def divideSigned (dividend : BitVec 64) (d : Word) : Config.DivValue :=
  if -2 ^ 31 ≤ dividend.toInt.tdiv d.toInt ∧ dividend.toInt.tdiv d.toInt ≤ 2 ^ 31 - 1 then
    quotientValue (BitVec.ofInt 32 (dividend.toInt.tdiv d.toInt)) (BitVec.ofInt 32 (dividend.toInt.tmod d.toInt))
  else Config.divOverflow true dividend d

/-- The 64-bit dividend `{Y, x[ro1]}` (R202). -/
def State.dividend (s : State) (ro1 : RegNum) : BitVec 64 := s.y ++ s.reg ro1

/-- The end of a division (R203, R205): the quotient to `rd`, the remainder to Y; a zero divisor traps and writes
nothing (R207; log entry 41). -/
def State.division (s : State) (rd : RegNum) (d : Word) (v : Config.DivValue) : Result :=
  if d = 0 then raise .divisionByZero s
  else .next { s.setReg rd v.quotient with y := v.remainder }.advance

/-- The end of a `cc` division (R204, R208): as the plain one, and the condition codes. -/
def State.divisionCodes (s : State) (rd : RegNum) (d : Word) (v : Config.DivValue) : Result :=
  if d = 0 then raise .divisionByZero s
  else .next ({ s.setReg rd v.quotient with y := v.remainder }.setCodes
    { n := v.n, z := v.z, v := v.v, c := v.c }).advance

/-- `umul` (R198): the constant is unsigned. -/
def execUmul (rd ro1 : RegNum) (o : Operand2) (s : State) : Result :=
  s.product rd (productUnsigned (s.reg ro1) (s.op2Unsigned o))

/-- `umulcc` (R199). -/
def execUmulcc (rd ro1 : RegNum) (o : Operand2) (s : State) : Result :=
  s.productCodes rd (productUnsigned (s.reg ro1) (s.op2Unsigned o))

/-- `smul` (R200). -/
def execSmul (rd ro1 : RegNum) (o : Operand2) (s : State) : Result :=
  s.product rd (productSigned (s.reg ro1) (s.op2 o))

/-- `smulcc` (R201). -/
def execSmulcc (rd ro1 : RegNum) (o : Operand2) (s : State) : Result :=
  s.productCodes rd (productSigned (s.reg ro1) (s.op2 o))

/-- `udiv` (R203): the constant is unsigned. -/
def execUdiv (rd ro1 : RegNum) (o : Operand2) (s : State) : Result :=
  s.division rd (s.op2Unsigned o) (divideUnsigned (s.dividend ro1) (s.op2Unsigned o))

/-- `udivcc` (R204). -/
def execUdivcc (rd ro1 : RegNum) (o : Operand2) (s : State) : Result :=
  s.divisionCodes rd (s.op2Unsigned o) (divideUnsigned (s.dividend ro1) (s.op2Unsigned o))

/-- `sdiv` (R205). -/
def execSdiv (rd ro1 : RegNum) (o : Operand2) (s : State) : Result :=
  s.division rd (s.op2 o) (divideSigned (s.dividend ro1) (s.op2 o))

/-- `sdivcc` (R208). -/
def execSdivcc (rd ro1 : RegNum) (o : Operand2) (s : State) : Result :=
  s.divisionCodes rd (s.op2 o) (divideSigned (s.dividend ro1) (s.op2 o))

end Sys2Proof.Machine
end

