-- ==== Sys2Proof/Machine/Sethi.lean ====
section
/-! DEFINITION. `sethi` (`41_sethi.md` R170) and `nop` (`48_nop.md` R310). -/
namespace Sys2Proof.Machine

/-- `sethi` (R170). -/
def execSethi (rd : RegNum) (const22 : BitVec 22) (s : State) : Result := s.result rd (sethiValue const22)

/-- `nop` (R310). -/
def execNop (s : State) : Result := .next s.advance

end Sys2Proof.Machine
end

