-- ==== Sys2Proof/Machine/Shift.lean ====
section
/-! DEFINITION. The shifts (`43_shift.md` R220 to R224). No shift changes a condition code. -/
namespace Sys2Proof.Machine

/-- `sll` (R221). -/
def execSll (rd ro1 : RegNum) (n : ShiftCount) (s : State) : Result := s.result rd (s.reg ro1 <<< s.shiftCount n)

/-- `srl` (R222). -/
def execSrl (rd ro1 : RegNum) (n : ShiftCount) (s : State) : Result := s.result rd (s.reg ro1 >>> s.shiftCount n)

/-- `sra` (R223). -/
def execSra (rd ro1 : RegNum) (n : ShiftCount) (s : State) : Result :=
  s.result rd ((s.reg ro1).sshiftRight (s.shiftCount n))

end Sys2Proof.Machine
end

