-- ==== Sys2Proof/Machine/StateRegs.lean ====
section
/-! DEFINITION. The reads and writes of the state registers (`49_state_regs.md` R313 to R327). All but those of Y are
privileged (R441, decision D12; log entry 24). -/
namespace Sys2Proof.Machine

/-- The value a `wr` writes (R320). -/
def State.xorValue (s : State) (ro1 : RegNum) (o : Operand2) : Word := s.reg ro1 ^^^ s.op2 o

/-- `rd %y` (R314). -/
def execRdY (rd : RegNum) (s : State) : Result := s.result rd s.y

/-- `rd %base` (R315). -/
def execRdBase (rd : RegNum) (s : State) : Result := privileged s (s.result rd s.base)

/-- `rd %limite` (R319). -/
def execRdLimite (rd : RegNum) (s : State) : Result := privileged s (s.result rd s.limite)

/-- `rd %psr` (R316). -/
def execRdPsr (rd : RegNum) (s : State) : Result := privileged s (s.result rd s.psr.toWord)

/-- `rd %wim` (R317). -/
def execRdWim (rd : RegNum) (s : State) : Result := privileged s (s.result rd s.wim)

/-- `rd %tbr` (R318). -/
def execRdTbr (rd : RegNum) (s : State) : Result := privileged s (s.result rd s.tbr.toWord)

/-- `wr %y` (R321). -/
def execWrY (ro1 : RegNum) (o : Operand2) (s : State) : Result := .next { s with y := s.xorValue ro1 o }.advance

/-- `wr %base` (R322). -/
def execWrBase (ro1 : RegNum) (o : Operand2) (s : State) : Result :=
  privileged s (.next { s with base := s.xorValue ro1 o }.advance)

/-- `wr %limite` (R326). -/
def execWrLimite (ro1 : RegNum) (o : Operand2) (s : State) : Result :=
  privileged s (.next { s with limite := s.xorValue ro1 o }.advance)

/-- `wr %psr` (R323): every field takes its bits of the value, the reserved bits are ignored (R43). -/
def execWrPsr (ro1 : RegNum) (o : Operand2) (s : State) : Result :=
  privileged s (.next { s with psr := Psr.ofWord (s.xorValue ro1 o) }.advance)

/-- `wr %wim` (R324). -/
def execWrWim (ro1 : RegNum) (o : Operand2) (s : State) : Result :=
  privileged s (.next { s with wim := s.xorValue ro1 o }.advance)

/-- `wr %tbr` (R325): bits 31..12 only. -/
def execWrTbr (ro1 : RegNum) (o : Operand2) (s : State) : Result :=
  privileged s (.next { s with tbr := s.tbr.write (s.xorValue ro1 o) }.advance)

end Sys2Proof.Machine
end

