-- ==== Sys2Proof/Machine/TrapInstr.lean ====
section
/-! DEFINITION. The software traps (`47_trap_instr.md` R285 to R305). -/
namespace Sys2Proof.Machine

/-- The trap number (R287, decision D23; log entry 21): the low seven bits of the sum. -/
def State.trapNumber (s : State) (ro1 : RegNum) (o : Operand2) : BitVec 7 := (s.sum ro1 o).extractLsb' 0 7

/-- Every `t<cond>` (R288). -/
def trapOn (c : Cond) (ro1 : RegNum) (o : Operand2) (s : State) : Result :=
  if condTrue c s.psr then raise (.trapInstruction (s.trapNumber ro1 o)) s else .next s.advance

/-- `tn` (R290). -/
def execTn (ro1 : RegNum) (o : Operand2) (s : State) : Result := trapOn .never ro1 o s

/-- `te` (R292). -/
def execTe (ro1 : RegNum) (o : Operand2) (s : State) : Result := trapOn .e ro1 o s

/-- `tle` (R294). -/
def execTle (ro1 : RegNum) (o : Operand2) (s : State) : Result := trapOn .le ro1 o s

/-- `tl` (R296). -/
def execTl (ro1 : RegNum) (o : Operand2) (s : State) : Result := trapOn .l ro1 o s

/-- `tleu` (R298). -/
def execTleu (ro1 : RegNum) (o : Operand2) (s : State) : Result := trapOn .leu ro1 o s

/-- `tcs` (R300). -/
def execTcs (ro1 : RegNum) (o : Operand2) (s : State) : Result := trapOn .cs ro1 o s

/-- `tneg` (R302). -/
def execTneg (ro1 : RegNum) (o : Operand2) (s : State) : Result := trapOn .neg ro1 o s

/-- `tvs` (R304). -/
def execTvs (ro1 : RegNum) (o : Operand2) (s : State) : Result := trapOn .vs ro1 o s

/-- `ta` (R291). -/
def execTa (ro1 : RegNum) (o : Operand2) (s : State) : Result := trapOn .always ro1 o s

/-- `tne` (R293). -/
def execTne (ro1 : RegNum) (o : Operand2) (s : State) : Result := trapOn .ne ro1 o s

/-- `tg` (R295). -/
def execTg (ro1 : RegNum) (o : Operand2) (s : State) : Result := trapOn .g ro1 o s

/-- `tge` (R297). -/
def execTge (ro1 : RegNum) (o : Operand2) (s : State) : Result := trapOn .ge ro1 o s

/-- `tgu` (R299). -/
def execTgu (ro1 : RegNum) (o : Operand2) (s : State) : Result := trapOn .gu ro1 o s

/-- `tcc` (R301). -/
def execTcc (ro1 : RegNum) (o : Operand2) (s : State) : Result := trapOn .cc ro1 o s

/-- `tpos` (R303). -/
def execTpos (ro1 : RegNum) (o : Operand2) (s : State) : Result := trapOn .pos ro1 o s

/-- `tvc` (R305). -/
def execTvc (ro1 : RegNum) (o : Operand2) (s : State) : Result := trapOn .vc ro1 o s

end Sys2Proof.Machine
end

