-- ==== Sys2Proof/Machine/Window.lean ====
section
/-! DEFINITION. `save` and `restore` (`46_window.md` R275 to R279). -/
namespace Sys2Proof.Machine

/-- `WIM[w]` (R45, WIMCHECK R352): window `w` is invalid. -/
def State.windowInvalid (s : State) (w : BitVec 5) : Bool := s.wim.getLsbD w.toNat

/-- The move of `save` and `restore` to window `w` (R276, R277): the sum is taken in the old window and written in the
new one; where the new window is invalid the trap `t` is raised and the window does not move (R278; log entry 30). -/
def moveWindow (t : TrapType) (w : BitVec 5) (rd ro1 : RegNum) (o : Operand2) (s : State) : Result :=
  if s.windowInvalid w then raise t s else (s.setCwp w).result rd (s.sum ro1 o)

/-- `save` (R276). -/
def execSave (rd ro1 : RegNum) (o : Operand2) (s : State) : Result :=
  moveWindow .windowOverflow (s.psr.cwp - 1) rd ro1 o s

/-- `restore` (R277). -/
def execRestore (rd ro1 : RegNum) (o : Operand2) (s : State) : Result :=
  moveWindow .windowUnderflow (s.psr.cwp + 1) rd ro1 o s

end Sys2Proof.Machine
end

