-- ==== Sys2Proof/Machine/Dispatch.lean ====
section
/-! DEFINITION. The meaning of every instruction: one direct call of its own definition per constructor. -/
namespace Sys2Proof.Machine

/-- What an instruction does to a state (`40_memory_access.md` to `49_state_regs.md`). -/
def exec (i : Instr) (s : State) : Host.Outcome State Fault Refusal :=
  match i with
  | .ld rd ro1 o => Sys2Proof.Machine.execLd rd ro1 o s
  | .ldub rd ro1 o => Sys2Proof.Machine.execLdub rd ro1 o s
  | .lduh rd ro1 o => Sys2Proof.Machine.execLduh rd ro1 o s
  | .ldsb rd ro1 o => Sys2Proof.Machine.execLdsb rd ro1 o s
  | .ldsh rd ro1 o => Sys2Proof.Machine.execLdsh rd ro1 o s
  | .st rd ro1 o => Sys2Proof.Machine.execSt rd ro1 o s
  | .stb rd ro1 o => Sys2Proof.Machine.execStb rd ro1 o s
  | .sth rd ro1 o => Sys2Proof.Machine.execSth rd ro1 o s
  | .sethi rd const22 => Sys2Proof.Machine.execSethi rd const22 s
  | .nop => Sys2Proof.Machine.execNop s
  | .and rd ro1 o => Sys2Proof.Machine.execAnd rd ro1 o s
  | .andcc rd ro1 o => Sys2Proof.Machine.execAndcc rd ro1 o s
  | .or rd ro1 o => Sys2Proof.Machine.execOr rd ro1 o s
  | .orcc rd ro1 o => Sys2Proof.Machine.execOrcc rd ro1 o s
  | .xor rd ro1 o => Sys2Proof.Machine.execXor rd ro1 o s
  | .xorcc rd ro1 o => Sys2Proof.Machine.execXorcc rd ro1 o s
  | .andn rd ro1 o => Sys2Proof.Machine.execAndn rd ro1 o s
  | .andncc rd ro1 o => Sys2Proof.Machine.execAndncc rd ro1 o s
  | .orn rd ro1 o => Sys2Proof.Machine.execOrn rd ro1 o s
  | .orncc rd ro1 o => Sys2Proof.Machine.execOrncc rd ro1 o s
  | .xnor rd ro1 o => Sys2Proof.Machine.execXnor rd ro1 o s
  | .xnorcc rd ro1 o => Sys2Proof.Machine.execXnorcc rd ro1 o s
  | .add rd ro1 o => Sys2Proof.Machine.execAdd rd ro1 o s
  | .addcc rd ro1 o => Sys2Proof.Machine.execAddcc rd ro1 o s
  | .sub rd ro1 o => Sys2Proof.Machine.execSub rd ro1 o s
  | .subcc rd ro1 o => Sys2Proof.Machine.execSubcc rd ro1 o s
  | .umul rd ro1 o => Sys2Proof.Machine.execUmul rd ro1 o s
  | .umulcc rd ro1 o => Sys2Proof.Machine.execUmulcc rd ro1 o s
  | .smul rd ro1 o => Sys2Proof.Machine.execSmul rd ro1 o s
  | .smulcc rd ro1 o => Sys2Proof.Machine.execSmulcc rd ro1 o s
  | .udiv rd ro1 o => Sys2Proof.Machine.execUdiv rd ro1 o s
  | .udivcc rd ro1 o => Sys2Proof.Machine.execUdivcc rd ro1 o s
  | .sdiv rd ro1 o => Sys2Proof.Machine.execSdiv rd ro1 o s
  | .sdivcc rd ro1 o => Sys2Proof.Machine.execSdivcc rd ro1 o s
  | .sll rd ro1 n => Sys2Proof.Machine.execSll rd ro1 n s
  | .srl rd ro1 n => Sys2Proof.Machine.execSrl rd ro1 n s
  | .sra rd ro1 n => Sys2Proof.Machine.execSra rd ro1 n s
  | .bn a disp22 => Sys2Proof.Machine.execBn a disp22 s
  | .be a disp22 => Sys2Proof.Machine.execBe a disp22 s
  | .ble a disp22 => Sys2Proof.Machine.execBle a disp22 s
  | .bl a disp22 => Sys2Proof.Machine.execBl a disp22 s
  | .bleu a disp22 => Sys2Proof.Machine.execBleu a disp22 s
  | .bcs a disp22 => Sys2Proof.Machine.execBcs a disp22 s
  | .bneg a disp22 => Sys2Proof.Machine.execBneg a disp22 s
  | .bvs a disp22 => Sys2Proof.Machine.execBvs a disp22 s
  | .ba a disp22 => Sys2Proof.Machine.execBa a disp22 s
  | .bne a disp22 => Sys2Proof.Machine.execBne a disp22 s
  | .bg a disp22 => Sys2Proof.Machine.execBg a disp22 s
  | .bge a disp22 => Sys2Proof.Machine.execBge a disp22 s
  | .bgu a disp22 => Sys2Proof.Machine.execBgu a disp22 s
  | .bcc a disp22 => Sys2Proof.Machine.execBcc a disp22 s
  | .bpos a disp22 => Sys2Proof.Machine.execBpos a disp22 s
  | .bvc a disp22 => Sys2Proof.Machine.execBvc a disp22 s
  | .jmp rd ro1 o => Sys2Proof.Machine.execJmp rd ro1 o s
  | .rett ro1 o => Sys2Proof.Machine.execRett ro1 o s
  | .call disp30 => Sys2Proof.Machine.execCall disp30 s
  | .save rd ro1 o => Sys2Proof.Machine.execSave rd ro1 o s
  | .restore rd ro1 o => Sys2Proof.Machine.execRestore rd ro1 o s
  | .tn ro1 o => Sys2Proof.Machine.execTn ro1 o s
  | .te ro1 o => Sys2Proof.Machine.execTe ro1 o s
  | .tle ro1 o => Sys2Proof.Machine.execTle ro1 o s
  | .tl ro1 o => Sys2Proof.Machine.execTl ro1 o s
  | .tleu ro1 o => Sys2Proof.Machine.execTleu ro1 o s
  | .tcs ro1 o => Sys2Proof.Machine.execTcs ro1 o s
  | .tneg ro1 o => Sys2Proof.Machine.execTneg ro1 o s
  | .tvs ro1 o => Sys2Proof.Machine.execTvs ro1 o s
  | .ta ro1 o => Sys2Proof.Machine.execTa ro1 o s
  | .tne ro1 o => Sys2Proof.Machine.execTne ro1 o s
  | .tg ro1 o => Sys2Proof.Machine.execTg ro1 o s
  | .tge ro1 o => Sys2Proof.Machine.execTge ro1 o s
  | .tgu ro1 o => Sys2Proof.Machine.execTgu ro1 o s
  | .tcc ro1 o => Sys2Proof.Machine.execTcc ro1 o s
  | .tpos ro1 o => Sys2Proof.Machine.execTpos ro1 o s
  | .tvc ro1 o => Sys2Proof.Machine.execTvc ro1 o s
  | .rdY rd => Sys2Proof.Machine.execRdY rd s
  | .rdBase rd => Sys2Proof.Machine.execRdBase rd s
  | .rdLimite rd => Sys2Proof.Machine.execRdLimite rd s
  | .rdPsr rd => Sys2Proof.Machine.execRdPsr rd s
  | .rdWim rd => Sys2Proof.Machine.execRdWim rd s
  | .rdTbr rd => Sys2Proof.Machine.execRdTbr rd s
  | .wrY ro1 o => Sys2Proof.Machine.execWrY ro1 o s
  | .wrBase ro1 o => Sys2Proof.Machine.execWrBase ro1 o s
  | .wrLimite ro1 o => Sys2Proof.Machine.execWrLimite ro1 o s
  | .wrPsr ro1 o => Sys2Proof.Machine.execWrPsr ro1 o s
  | .wrWim ro1 o => Sys2Proof.Machine.execWrWim ro1 o s
  | .wrTbr ro1 o => Sys2Proof.Machine.execWrTbr ro1 o s

end Sys2Proof.Machine
end

