-- ==== Sys2Proof/Machine/Step.lean ====
section
/-! DEFINITION. The step of the machine and the placing of one instruction where it fetches. -/
namespace Sys2Proof.Machine

/-- One step (`60_exceptions.md` R404, `70_reset_and_hazards.md` R481). -/
def step (s : State) : Host.Outcome State Fault Refusal := cycle exec s

/-- The state with an instruction of the opcode table stored in the word the next step fetches (`20_memory.md` R90). It
stands for the loading of a program from outside, `MEM_IMAGE` (R76; log entry 31). -/
def State.withFetchWord (s : State) (nbits w : Nat) : State := s.withWordAtPc (tableWord nbits w)

end Sys2Proof.Machine
end

