-- ==== Sys2Proof/Machine/Run.lean ====
section
/-! DEFINITION. A run of the machine and its end (`60_exceptions.md` R454, decision D34): the caller's stop address, error
mode, a bus cycle nobody answers, or a word or an access with no meaning. -/
namespace Sys2Proof.Machine

/-- Why a run ended (R454, D34; log entry 35). -/
inductive RunEnd where
  /-- `pc` is the stop address at the start of a step: the normal end -/
  | stopAddress
  /-- the processor entered error mode (R424) -/
  | errorMode
  /-- a bus cycle that nobody answers (R93) -/
  | stuck
  /-- a word or an access to which the spec gives no meaning (U2, U9) -/
  | noMeaning (r : Refusal)
  /-- the run has not ended: the caller's bound on the steps is used up -/
  | stepsUsed
  deriving DecidableEq, Repr

/-- The result of a run: why it ended, and the final architectural state and memory (R454). -/
structure RunResult where
  why : RunEnd
  state : State
  deriving DecidableEq, Repr

/-- The stop address is reached (R454). -/
def State.atStop (stopPc : Option Word) (s : State) : Bool := stopPc == some s.pc

/-- The end of a run at the start of a step, if it is one: error mode, whatever input is left, or the stop address. -/
def State.ended (stopPc : Option Word) (s : State) : Option RunEnd :=
  if s.errorMode then some .errorMode else if s.atStop stopPc then some .stopAddress else none

/-- The state in which a step that has no next state stops: the environment's events have happened and, where the fetch
completed, its bus cycle and the other masters' writes after it. The instruction has written nothing (R152, R423). -/
def State.stopped (s : State) : State :=
  match fetch s.beginTurn with
  | .done _ s' => s'.masterWrites s.turn.midway
  | _ => s.beginTurn

/-- The end of a run by a fault of the step. -/
def Fault.runEnd : Fault → RunEnd
  | .errorMode => .errorMode
  | .busNoAnswer => .stuck

/-- A run of at most `n` steps with stop address `stopPc` (R454, D34). The environment's events stand between two steps,
so the stop address is looked for before them and, as a RESET among them moves `pc`, after them (log entry 35). -/
def run (stopPc : Option Word) : Nat → State → RunResult
  | 0, s => { why := (s.ended stopPc).getD .stepsUsed, state := s }
  | n + 1, s =>
    match s.ended stopPc with
    | some e => { why := e, state := s }
    | none =>
      if s.beginTurn.atStop stopPc then { why := .stopAddress, state := s.beginTurn }
      else
        match step s with
        | .next t => run stopPc n t
        | .fault f => { why := f.runEnd, state := s.stopped }
        | .refused r => { why := .noMeaning r, state := s.stopped }

end Sys2Proof.Machine
end

