-- ==== Sys2Proof/Safety.lean ====
section
/-! DEFINITION. The terms in which claims speak: the invariant of the machine, and what "only this
changed" means for an instruction. Nothing here is part of the machine. -/
namespace Sys2Proof.Machine

/-! ### The invariant -/

/-- What holds of every state the machine reaches: memory and its image are in canonical form, `G[0]` is 0 (`10_state.md`
R21), and both program counters and the parameter `RESET_PC` are multiples of 4 (R34, and the table of
`92_eei_decisions.md`). -/
structure State.Inv (s : State) : Prop where
  mem : Memory.wf s.mem
  image : Memory.wf s.platform.image
  g0 : s.glob.get 0 = 0
  pc : s.pc.toNat % 4 = 0
  npc : s.npc.toNat % 4 = 0
  resetPc : s.platform.resetPc.toNat % 4 = 0

/-! ### What stayed the same between two states -/

/-- No general register changed. -/
structure KeepsRegisters (s t : State) : Prop where
  glob : ∀ i, t.glob.get i = s.glob.get i
  win : ∀ j, t.win.get j = s.win.get j

/-- No condition code changed (`10_state.md` R36). -/
structure KeepsCodes (s t : State) : Prop where
  n : t.psr.n = s.psr.n
  z : t.psr.z = s.psr.z
  v : t.psr.v = s.psr.v
  c : t.psr.c = s.psr.c

/-- No field of PSR changed but perhaps the condition codes and CWP. -/
structure KeepsMode (s t : State) : Prop where
  pil : t.psr.pil = s.psr.pil
  sup : t.psr.s = s.psr.s
  ps : t.psr.ps = s.psr.ps
  et : t.psr.et = s.psr.et

/-- WIM, TBR, BASE and LIMITE did not change. -/
structure KeepsSpecial (s t : State) : Prop where
  wim : t.wim = s.wim
  tbr : t.tbr = s.tbr
  base : t.base = s.base
  limite : t.limite = s.limite

/-- Every byte of memory reads as before and no device was accessed. -/
structure KeepsMemory (s t : State) : Prop where
  bytes : ∀ a, Memory.read t.mem a = Memory.read s.mem a
  devices : t.deviceLog = s.deviceLog

/-- The configuration, the lines, the input and error mode did not change. -/
structure KeepsRest (s t : State) : Prop where
  errorMode : t.errorMode = s.errorMode
  irq : t.irq = s.irq
  platform : t.platform = s.platform
  inputs : t.inputs = s.inputs

/-- All but the general registers, the condition codes, Y, CWP and the program counters is as before. -/
structure KeepsOthers (s t : State) : Prop where
  mode : KeepsMode s t
  special : KeepsSpecial s t
  memory : KeepsMemory s t
  rest : KeepsRest s t

/-! ### What changed -/

/-- Register `rd` of window `w` holds `v`, when it is not register 0, and every other element of `G` and `R` is as
before (`10_state.md` R23, R24). -/
structure OnlyRegister (s t : State) (w : BitVec 5) (rd : RegNum) (v : Word) : Prop where
  glob : ∀ i : Fin 8, t.glob.get i = if rd ≠ 0 ∧ i.val = rd.toNat then v else s.glob.get i
  win : ∀ j : Fin 512,
    t.win.get j = if 8 ≤ rd.toNat ∧ j.val = (w.toNat * 16 + rd.toNat - 8) % 512 then v else s.win.get j

/-- The condition codes are these. -/
structure HasCodes (t : State) (n z v c : Bool) : Prop where
  n : t.psr.n = n
  z : t.psr.z = z
  v : t.psr.v = v
  c : t.psr.c = c

/-- The program counters after an instruction that transfers no control (`10_state.md` R32). -/
structure Sequential (s t : State) : Prop where
  pc : t.pc = s.npc
  npc : t.npc = s.npc + 4

/-- The program counters after a taken transfer to `target` (`10_state.md` R33). -/
structure Transfers (s t : State) (target : Word) : Prop where
  pc : t.pc = s.npc
  npc : t.npc = target

/-- An instruction whose whole effect is `x[rd] <- v`. -/
structure WritesOnly (s t : State) (rd : RegNum) (v : Word) : Prop where
  reg : OnlyRegister s t s.psr.cwp rd v
  codes : KeepsCodes s t
  cwp : t.psr.cwp = s.psr.cwp
  y : t.y = s.y
  others : KeepsOthers s t
  counters : Sequential s t

/-- An instruction whose whole effect is `x[rd] <- v` and the condition codes. -/
structure WritesWithCodes (s t : State) (rd : RegNum) (v : Word) (n z vf c : Bool) : Prop where
  reg : OnlyRegister s t s.psr.cwp rd v
  codes : HasCodes t n z vf c
  cwp : t.psr.cwp = s.psr.cwp
  y : t.y = s.y
  others : KeepsOthers s t
  counters : Sequential s t

/-- An instruction whose whole effect is `x[rd] <- v` and `Y <- y`. -/
structure WritesWithY (s t : State) (rd : RegNum) (v y : Word) : Prop where
  reg : OnlyRegister s t s.psr.cwp rd v
  codes : KeepsCodes s t
  cwp : t.psr.cwp = s.psr.cwp
  y : t.y = y
  others : KeepsOthers s t
  counters : Sequential s t

/-- An instruction whose whole effect is `x[rd] <- v`, `Y <- y` and the condition codes. -/
structure WritesWithYCodes (s t : State) (rd : RegNum) (v y : Word) (n z vf c : Bool) : Prop where
  reg : OnlyRegister s t s.psr.cwp rd v
  codes : HasCodes t n z vf c
  cwp : t.psr.cwp = s.psr.cwp
  y : t.y = y
  others : KeepsOthers s t
  counters : Sequential s t

/-- Everything but the program counters is as before. -/
structure MovesOnly (s t : State) : Prop where
  regs : KeepsRegisters s t
  codes : KeepsCodes s t
  cwp : t.psr.cwp = s.psr.cwp
  y : t.y = s.y
  others : KeepsOthers s t

/-- Instruction `i` completes and its whole effect is `x[rd] <- v`. -/
def CompletesWriting (i : Instr) (s : State) (rd : RegNum) (v : Word) : Prop :=
  ∃ t, exec i s = .next t ∧ WritesOnly s t rd v

/-- Instruction `i` completes and its whole effect is `x[rd] <- v` and the condition codes. -/
def CompletesWithCodes (i : Instr) (s : State) (rd : RegNum) (v : Word) (n z vf c : Bool) : Prop :=
  ∃ t, exec i s = .next t ∧ WritesWithCodes s t rd v n z vf c

/-- What a load or a store that completes leaves alone, apart from its register or its bytes. -/
structure AccessFrame (s t : State) : Prop where
  codes : KeepsCodes s t
  cwp : t.psr.cwp = s.psr.cwp
  y : t.y = s.y
  mode : KeepsMode s t
  special : KeepsSpecial s t
  rest : KeepsRest s t
  counters : Sequential s t

/-! ### Traps -/

/-- Trap entry with type `tt`, clause by clause (`60_exceptions.md` R420), and that nothing else changed (R422). -/
structure TrapEntered (s t : State) (tt : BitVec 8) : Prop where
  cwp : t.psr.cwp = s.psr.cwp - 1
  et : t.psr.et = false
  ps : t.psr.ps = s.psr.s
  sup : t.psr.s = true
  savedPc : t.reg 17 = s.pc
  savedNpc : t.reg 18 = s.npc
  trapType : t.tbr.tt = tt
  pc : t.pc = s.tbr.tba ++ tt ++ 0#4
  npc : t.npc = t.pc + 4
  tba : t.tbr.tba = s.tbr.tba
  pil : t.psr.pil = s.psr.pil
  codes : KeepsCodes s t
  glob : ∀ i, t.glob.get i = s.glob.get i
  win : ∀ j : Fin 512, j.val ≠ ((s.psr.cwp - 1).toNat * 16 + 9) % 512 →
    j.val ≠ ((s.psr.cwp - 1).toNat * 16 + 10) % 512 → t.win.get j = s.win.get j
  y : t.y = s.y
  wim : t.wim = s.wim
  base : t.base = s.base
  limite : t.limite = s.limite
  memory : KeepsMemory s t
  rest : KeepsRest s t

/-- What an outcome is when trap `tt` is raised in state `s`: trap entry when traps are enabled (R420); when they are
not, error mode and no other change (R424). -/
structure Raises (s : State) (r : Result) (tt : BitVec 8) : Prop where
  enabled : s.psr.et = true → ∃ t, r = .next t ∧ TrapEntered s t tt
  disabled : s.psr.et = false → r = .next { s with errorMode := true }

/-! ### Instructions by condition, and bytes -/

/-- The branch with condition `c` (`44_branch.md` R237 to R252). -/
def branchOf : Cond → Bool → BitVec 22 → Instr
  | .never => .bn
  | .e => .be
  | .le => .ble
  | .l => .bl
  | .leu => .bleu
  | .cs => .bcs
  | .neg => .bneg
  | .vs => .bvs
  | .always => .ba
  | .ne => .bne
  | .g => .bg
  | .ge => .bge
  | .gu => .bgu
  | .cc => .bcc
  | .pos => .bpos
  | .vc => .bvc

/-- The software trap with condition `c` (`47_trap_instr.md` R290 to R305). -/
def softTrapOf : Cond → RegNum → Operand2 → Instr
  | .never => .tn
  | .e => .te
  | .le => .tle
  | .l => .tl
  | .leu => .tleu
  | .cs => .tcs
  | .neg => .tneg
  | .vs => .tvs
  | .always => .ta
  | .ne => .tne
  | .g => .tg
  | .ge => .tge
  | .gu => .tgu
  | .cc => .tcc
  | .pos => .tpos
  | .vc => .tvc

/-- The eleven privileged instructions (`60_exceptions.md` R441, decision D12; log entry 24). -/
def isPrivileged : Instr → Bool
  | .rett _ _ => true
  | .rdPsr _ => true
  | .rdWim _ => true
  | .rdTbr _ => true
  | .rdBase _ => true
  | .rdLimite _ => true
  | .wrPsr _ _ => true
  | .wrWim _ _ => true
  | .wrTbr _ _ => true
  | .wrBase _ _ => true
  | .wrLimite _ _ => true
  | _ => false

/-- The instructions that write the condition codes (`10_state.md` R36). -/
def writesCodes : Instr → Bool
  | .andcc _ _ _ => true
  | .andncc _ _ _ => true
  | .orcc _ _ _ => true
  | .orncc _ _ _ => true
  | .xorcc _ _ _ => true
  | .xnorcc _ _ _ => true
  | .addcc _ _ _ => true
  | .subcc _ _ _ => true
  | .umulcc _ _ _ => true
  | .smulcc _ _ _ => true
  | .udivcc _ _ _ => true
  | .sdivcc _ _ _ => true
  | .wrPsr _ _ => true
  | _ => false

/-- The instructions that move the window pointer (`10_state.md` R27). -/
def movesWindow : Instr → Bool
  | .save _ _ _ => true
  | .restore _ _ _ => true
  | .rett _ _ => true
  | .wrPsr _ _ => true
  | _ => false

/-- The instructions that write Y (`10_state.md` R44). -/
def writesY : Instr → Bool
  | .umul _ _ _ => true
  | .umulcc _ _ _ => true
  | .smul _ _ _ => true
  | .smulcc _ _ _ => true
  | .udiv _ _ _ => true
  | .udivcc _ _ _ => true
  | .sdiv _ _ _ => true
  | .sdivcc _ _ _ => true
  | .wrY _ _ => true
  | _ => false

/-- The second operand as an unsigned number (`30_encoding.md` R121, of `umul`, `umulcc`, `udiv`, `udivcc`). -/
def State.unsignedOperand (s : State) : Operand2 → Nat
  | .reg ro2 => (s.reg ro2).toNat
  | .imm const13 => const13.toNat

/-- The second operand as a signed number (`30_encoding.md` R121, of every other instruction). -/
def State.signedOperand (s : State) : Operand2 → Int
  | .reg ro2 => (s.reg ro2).toInt
  | .imm const13 => const13.toInt

/-- The count of a shift as a number (`30_encoding.md` R123). -/
def State.countOperand (s : State) : ShiftCount → Nat
  | .reg ro2 => (s.reg ro2).toNat % 32
  | .imm const5 => const5.toNat

/-- The value of the `n` bytes from absolute address `a`, the byte at the lowest address the least significant
(`20_memory.md` R74). -/
def littleEndian (m : Memory) (a : Nat) : Nat → Nat
  | 0 => 0
  | n + 1 => (Memory.read m a).toNat + 256 * littleEndian m (a + 1) n

/-- Who answers the bus cycle of a data access at program address `p` (`20_memory.md` R80, R93). -/
def State.answers (s : State) (p : Word) : BusAnswer := s.platform.answer (wordIndex (s.absolute p))

end Sys2Proof.Machine
end

