-- ==== Sys2Proof/Certificates/Slice0/Obligations.lean ====
section
/-! DEFINITION. The statements about this machine, in the order of `OBLIGATIONS.json`. A statement that rests on a choice
names the decision of `92_eei_decisions.md` it rests on and the log entry that records it. -/

open Sys2Proof Sys2Proof.Machine

/-! ### Encoding -/

/-- Words written out from the encodings of the spec decode to the instructions they stand for (R153, R170, R194, R221,
R234, R263, R268, R276, R291, R203, R314, R323). -/
def Obligations.WrittenWordsDecode : Prop :=
  decode 0xC6007FFC = .instr (.ld 3 1 (.imm 0x1FFC)) ∧
  decode 0xC6284002 = .instr (.stb 3 1 (.reg 2)) ∧
  decode 0x03048D15 = .instr (.sethi 1 0x48D15) ∧
  decode 0x86004002 = .instr (.add 3 1 (.reg 2)) ∧
  decode 0x86704002 = .instr (.udiv 3 1 (.reg 2)) ∧
  decode 0x87286004 = .instr (.sll 3 1 (.imm 4)) ∧
  decode 0x32BFFFFE = .instr (.bne true 0x3FFFFE) ∧
  decode 0x81C7E008 = .instr (.jmp 0 31 (.imm 8)) ∧
  decode 0x7FFFFFFF = .instr (.call 0x3FFFFFFF) ∧
  decode 0x9DE3BFC0 = .instr (.save 14 14 (.imm 0x1FC0)) ∧
  decode 0x91D02003 = .instr (.ta 0 (.imm 3)) ∧
  decode 0x87404000 = .instr (.rdBase 3) ∧
  decode 0x81884002 = .instr (.wrPsr 1 (.reg 2))

/-- Decoding the word of a well-formed instruction gives the instruction back, with every operand at every value. -/
def Obligations.DecodeInvertsEncode : Prop :=
  ∀ i : Instr, i.wellFormed = true → decode (encode i) = .instr i

/-- A word that decodes to an instruction decodes to a well-formed one whose word it is; only bits 12:5 of a shift with
i = 1 are ignored (R115, R224). -/
def Obligations.EncodeInvertsDecode : Prop :=
  ∀ (w : Word) (i : Instr), decode w = .instr i →
    i.wellFormed = true ∧
      encode i =
        if opField w = 0b10 ∧ (op3Field w = 0b100101 ∨ op3Field w = 0b100110 ∨ op3Field w = 0b100111) ∧ iField w = true
        then w &&& 0xFFFFE01F else w

/-- The unassigned words are those of R131 over the maps of R118, R119, R120, R129 and R130. Which words these are is the
spec's own choice, recorded in log entries 33 and 22: every op, op2, op3 and selector that no row assigns is unassigned
(decisions D10 and D26), the selector alone decides under op3 101000 and 110000, and the writes of Y, BASE and LIMITE
stand under 110000 with the selector in bits 29:25 (decision D24). -/
def Obligations.UnassignedWords : Prop :=
  ∀ w : Word, decode w = .unassigned ↔
    (opField w = 0b00 ∧ op2Field w ≠ 0b010 ∧ op2Field w ≠ 0b100) ∨
    (opField w = 0b10 ∧ op3Field w ∈
      ([0b001000, 0b001001, 0b001100, 0b001101, 0b011000, 0b011001, 0b011100, 0b011101, 0b100000, 0b100001, 0b100010,
        0b100011, 0b100100, 0b101100, 0b101101, 0b101110, 0b101111, 0b110100, 0b110101, 0b110110, 0b110111, 0b111011,
        0b111110, 0b111111] : List (BitVec 6))) ∨
    (opField w = 0b10 ∧ op3Field w = 0b101000 ∧ 2 < (ro1Field w).toNat) ∨
    (opField w = 0b10 ∧ op3Field w = 0b110000 ∧ 2 < (rdField w).toNat) ∨
    (opField w = 0b11 ∧ op3Field w ∉
      ([0b000000, 0b000001, 0b000010, 0b000100, 0b000101, 0b000110, 0b001001, 0b001010] : List (BitVec 6)))

/-- The words with no meaning are the assigned ones with a non-zero bit in a field of the table of R132 (refused by
decision D11; log entry 9). -/
def Obligations.ReservedFieldWords : Prop :=
  ∀ w : Word, decode w = .reservedField ↔
    decode w ≠ .unassigned ∧
    ((opField w = 0b11 ∧ iField w = false ∧ zeroField w ≠ 0) ∨
     (opField w = 0b10 ∧ (op3Field w = 0b101000 ∨ op3Field w = 0b101001 ∨ op3Field w = 0b101010 ∨ op3Field w = 0b101011) ∧
       low14Field w ≠ 0) ∨
     (opField w = 0b10 ∧ (op3Field w = 0b101001 ∨ op3Field w = 0b101010 ∨ op3Field w = 0b101011) ∧ ro1Field w ≠ 0) ∨
     (opField w = 0b10 ∧ ¬ (op3Field w = 0b101000 ∨ op3Field w = 0b101001 ∨ op3Field w = 0b101010 ∨
       op3Field w = 0b101011) ∧ iField w = false ∧ zeroField w ≠ 0) ∨
     (opField w = 0b10 ∧ (op3Field w = 0b110001 ∨ op3Field w = 0b110010 ∨ op3Field w = 0b110011 ∨ op3Field w = 0b111001) ∧
       rdField w ≠ 0) ∨
     (opField w = 0b10 ∧ op3Field w = 0b111010 ∧ bit29Field w = true))

/-! ### Registers, conditions, operands -/

/-- A register write changes the one element R24 names, none for register 0, and nothing else of the state. -/
def Obligations.RegisterWrite : Prop :=
  ∀ (s : State) (i : RegNum) (v : Word),
    OnlyRegister s (s.setReg i v) s.psr.cwp i v ∧ (s.setReg i v).psr = s.psr ∧ (s.setReg i v).y = s.y ∧
      (s.setReg i v).pc = s.pc ∧ (s.setReg i v).npc = s.npc ∧ KeepsOthers s (s.setReg i v)

/-- Reading a register after a write of any register in the same window (R24, R25). -/
def Obligations.RegisterReadAfterWrite : Prop :=
  ∀ (s : State) (i j : RegNum) (v : Word), (s.setReg i v).reg j = if j = i ∧ i ≠ 0 then v else s.reg j

/-- The in registers of a window are the out registers of the window above, and a write in another window leaves a
window's local registers alone (R26). -/
def Obligations.WindowsOverlap : Prop :=
  (∀ (s : State) (w : BitVec 5) (k : Nat), k < 8 →
    (s.setCwp w).reg (BitVec.ofNat 5 (24 + k)) = (s.setCwp (w + 1)).reg (BitVec.ofNat 5 (8 + k))) ∧
  ∀ (s : State) (w w' : BitVec 5) (i : RegNum) (v : Word) (k : Nat), k < 8 → w' ≠ w →
    (((s.setCwp w').setReg i v).setCwp w).reg (BitVec.ofNat 5 (16 + k)) = (s.setCwp w).reg (BitVec.ofNat 5 (16 + k))

/-- The sixteen conditions by their codes, and that a code with bit 3 set is the negation of the code without it (R41). -/
def Obligations.ConditionTable : Prop :=
  ∀ p : Psr,
    (∀ c : Cond, condTrue c p =
      match c.code.toNat with
      | 0b0000 => false
      | 0b0001 => p.z
      | 0b0010 => p.z || (p.n ^^ p.v)
      | 0b0011 => p.n ^^ p.v
      | 0b0100 => p.c || p.z
      | 0b0101 => p.c
      | 0b0110 => p.n
      | 0b0111 => p.v
      | 0b1000 => true
      | 0b1001 => !p.z
      | 0b1010 => !(p.z || (p.n ^^ p.v))
      | 0b1011 => !(p.n ^^ p.v)
      | 0b1100 => !(p.c || p.z)
      | 0b1101 => !p.c
      | 0b1110 => !p.n
      | _ => !p.v) ∧
    ∀ c c' : Cond, c'.code = c.code ^^^ 0b1000 → condTrue c' p = !condTrue c p

/-- The second operand: a register, or the constant as the signed number of its 13 bits, and for the unsigned
multiplications and divisions as the unsigned one (R121, decision D13; log entry 17). -/
def Obligations.SecondOperand : Prop :=
  ∀ (s : State) (r : RegNum) (c : BitVec 13),
    s.op2 (.reg r) = s.reg r ∧ s.op2Unsigned (.reg r) = s.reg r ∧
      (s.op2 (.imm c)).toInt = c.toInt ∧ (s.op2Unsigned (.imm c)).toNat = c.toNat ∧
      ∀ o : Operand2, (s.op2 o).toInt = s.signedOperand o ∧ (s.op2Unsigned o).toNat = s.unsignedOperand o

/-! ### Logic and arithmetic -/

/-- The six plain logical instructions: their words, their results, that they always complete, and that nothing else
changes. -/
def Obligations.LogicalResults : Prop :=
  ∀ (s : State) (rd ro1 : RegNum) (o : Operand2),
    decode (word3 0b10 rd 0b000001 ro1 (operandBits o)) = .instr (.and rd ro1 o) ∧
    CompletesWriting (.and rd ro1 o) s rd (s.reg ro1 &&& s.op2 o) ∧
    decode (word3 0b10 rd 0b000010 ro1 (operandBits o)) = .instr (.or rd ro1 o) ∧
    CompletesWriting (.or rd ro1 o) s rd (s.reg ro1 ||| s.op2 o) ∧
    decode (word3 0b10 rd 0b000011 ro1 (operandBits o)) = .instr (.xor rd ro1 o) ∧
    CompletesWriting (.xor rd ro1 o) s rd (s.reg ro1 ^^^ s.op2 o) ∧
    decode (word3 0b10 rd 0b000101 ro1 (operandBits o)) = .instr (.andn rd ro1 o) ∧
    CompletesWriting (.andn rd ro1 o) s rd (s.reg ro1 &&& ~~~(s.op2 o)) ∧
    decode (word3 0b10 rd 0b000110 ro1 (operandBits o)) = .instr (.orn rd ro1 o) ∧
    CompletesWriting (.orn rd ro1 o) s rd (s.reg ro1 ||| ~~~(s.op2 o)) ∧
    decode (word3 0b10 rd 0b000111 ro1 (operandBits o)) = .instr (.xnor rd ro1 o) ∧
    CompletesWriting (.xnor rd ro1 o) s rd (~~~(s.reg ro1 ^^^ s.op2 o))

/-- The six logical instructions with suffix `cc`: as the plain ones, with N bit 31 of the result, Z whether it is 0, V
and C 0, written also when rd is 0. -/
def Obligations.LogicalResultsWithCodes : Prop :=
  ∀ (s : State) (rd ro1 : RegNum) (o : Operand2) (r : Word),
    decode (word3 0b10 rd 0b010001 ro1 (operandBits o)) = .instr (.andcc rd ro1 o) ∧
    (r = s.reg ro1 &&& s.op2 o →
      CompletesWithCodes (.andcc rd ro1 o) s rd r (r.getLsbD 31) (decide (r = 0)) false false) ∧
    decode (word3 0b10 rd 0b010010 ro1 (operandBits o)) = .instr (.orcc rd ro1 o) ∧
    (r = s.reg ro1 ||| s.op2 o →
      CompletesWithCodes (.orcc rd ro1 o) s rd r (r.getLsbD 31) (decide (r = 0)) false false) ∧
    decode (word3 0b10 rd 0b010011 ro1 (operandBits o)) = .instr (.xorcc rd ro1 o) ∧
    (r = s.reg ro1 ^^^ s.op2 o →
      CompletesWithCodes (.xorcc rd ro1 o) s rd r (r.getLsbD 31) (decide (r = 0)) false false) ∧
    decode (word3 0b10 rd 0b010101 ro1 (operandBits o)) = .instr (.andncc rd ro1 o) ∧
    (r = s.reg ro1 &&& ~~~(s.op2 o) →
      CompletesWithCodes (.andncc rd ro1 o) s rd r (r.getLsbD 31) (decide (r = 0)) false false) ∧
    decode (word3 0b10 rd 0b010110 ro1 (operandBits o)) = .instr (.orncc rd ro1 o) ∧
    (r = s.reg ro1 ||| ~~~(s.op2 o) →
      CompletesWithCodes (.orncc rd ro1 o) s rd r (r.getLsbD 31) (decide (r = 0)) false false) ∧
    decode (word3 0b10 rd 0b010111 ro1 (operandBits o)) = .instr (.xnorcc rd ro1 o) ∧
    (r = ~~~(s.reg ro1 ^^^ s.op2 o) →
      CompletesWithCodes (.xnorcc rd ro1 o) s rd r (r.getLsbD 31) (decide (r = 0)) false false)

/-- `add` and `sub`: their words, the sum and the difference modulo 2^32, that they always complete, and that nothing
else changes. -/
def Obligations.AddAndSubtract : Prop :=
  ∀ (s : State) (rd ro1 : RegNum) (o : Operand2),
    decode (word3 0b10 rd 0b000000 ro1 (operandBits o)) = .instr (.add rd ro1 o) ∧
    CompletesWriting (.add rd ro1 o) s rd (BitVec.ofNat 32 (((s.reg ro1).toNat + (s.op2 o).toNat) % 2 ^ 32)) ∧
    decode (word3 0b10 rd 0b000100 ro1 (operandBits o)) = .instr (.sub rd ro1 o) ∧
    CompletesWriting (.sub rd ro1 o) s rd (BitVec.ofInt 32 (((s.reg ro1).toNat : Int) - ((s.op2 o).toNat : Int)))

/-- `addcc` and `subcc`: the plain result, N and Z of it, C the carry out or the borrow (decision D14; log entry 14), V
a signed result outside 32 bits, stated by the sign bits as R178 does in its second form. -/
def Obligations.AddAndSubtractWithCodes : Prop :=
  ∀ (s : State) (rd ro1 : RegNum) (o : Operand2) (a b : Word), a = s.reg ro1 → b = s.op2 o →
    CompletesWithCodes (.addcc rd ro1 o) s rd (a + b) ((a + b).getLsbD 31) (decide (a + b = 0))
      ((a.getLsbD 31 == b.getLsbD 31) && ((a + b).getLsbD 31 != a.getLsbD 31))
      (decide (2 ^ 32 ≤ a.toNat + b.toNat)) ∧
    CompletesWithCodes (.subcc rd ro1 o) s rd (a - b) ((a - b).getLsbD 31) (decide (a - b = 0))
      ((a.getLsbD 31 != b.getLsbD 31) && ((a - b).getLsbD 31 != a.getLsbD 31))
      (decide (a.toNat < b.toNat))

/-- `umul` and `smul`: their words, and the exact 64-bit product in Y and rd, `YOut * 2^32 + Res = OpA * OpB`; the
constant of `umul` is unsigned, that of `smul` signed. They always complete and nothing else changes. -/
def Obligations.Products : Prop :=
  ∀ (s : State) (rd ro1 : RegNum) (o : Operand2),
    decode (word3 0b10 rd 0b001010 ro1 (operandBits o)) = .instr (.umul rd ro1 o) ∧
    (∃ t low high, exec (.umul rd ro1 o) s = .next t ∧ WritesWithY s t rd low high ∧
      high.toNat * 2 ^ 32 + low.toNat = (s.reg ro1).toNat * s.unsignedOperand o) ∧
    decode (word3 0b10 rd 0b001011 ro1 (operandBits o)) = .instr (.smul rd ro1 o) ∧
    (∃ t low high, exec (.smul rd ro1 o) s = .next t ∧ WritesWithY s t rd low high ∧
      high.toInt * 2 ^ 32 + (low.toNat : Int) = (s.reg ro1).toInt * s.signedOperand o)

/-- `umulcc` and `smulcc`: their words, the products of `umul` and `smul`, and N, Z of the low word alone, V and C 0. -/
def Obligations.ProductsWithCodes : Prop :=
  ∀ (s : State) (rd ro1 : RegNum) (o : Operand2),
    decode (word3 0b10 rd 0b011010 ro1 (operandBits o)) = .instr (.umulcc rd ro1 o) ∧
    (∃ t low high, exec (.umulcc rd ro1 o) s = .next t ∧
      WritesWithYCodes s t rd low high (low.getLsbD 31) (decide (low = 0)) false false ∧
      high.toNat * 2 ^ 32 + low.toNat = (s.reg ro1).toNat * s.unsignedOperand o) ∧
    decode (word3 0b10 rd 0b011011 ro1 (operandBits o)) = .instr (.smulcc rd ro1 o) ∧
    (∃ t low high, exec (.smulcc rd ro1 o) s = .next t ∧
      WritesWithYCodes s t rd low high (low.getLsbD 31) (decide (low = 0)) false false ∧
      high.toInt * 2 ^ 32 + (low.toNat : Int) = (s.reg ro1).toInt * s.signedOperand o)

/-- `udiv` and `udivcc` where the quotient fits, that is `u(Y) < d`: quotient and remainder of the 64-bit dividend
`Y * 2^32 + x[ro1]`, and for `udivcc` the condition codes of R180 (decision D17; log entry 16). -/
def Obligations.UnsignedDivision : Prop :=
  ∀ (s : State) (rd ro1 : RegNum) (o : Operand2) (d : Nat),
    d = s.unsignedOperand o → s.y.toNat < d →
    ∃ q m : Word, s.y.toNat * 2 ^ 32 + (s.reg ro1).toNat = q.toNat * d + m.toNat ∧ m.toNat < d ∧
      (∃ t, exec (.udiv rd ro1 o) s = .next t ∧ WritesWithY s t rd q m) ∧
      ∃ t, exec (.udivcc rd ro1 o) s = .next t ∧
        WritesWithYCodes s t rd q m (q.getLsbD 31) (decide (q = 0)) false false

/-- `sdiv` and `sdivcc` where the quotient fits: the quotient rounded toward zero and the remainder, which is 0 or has
the dividend's sign and is smaller than the divisor (decision D15; log entry 15), and for `sdivcc` the condition codes
of R180 (decision D17; log entry 16). -/
def Obligations.SignedDivision : Prop :=
  ∀ (s : State) (rd ro1 : RegNum) (o : Operand2) (d q m : Int),
    d = s.signedOperand o →
    s.y.toInt * 2 ^ 32 + ((s.reg ro1).toNat : Int) = q * d + m →
    m.natAbs < d.natAbs → (m = 0 ∨ (m < 0 ↔ s.y.toInt < 0)) →
    -2 ^ 31 ≤ q → q ≤ 2 ^ 31 - 1 →
    (∃ t, exec (.sdiv rd ro1 o) s = .next t ∧ WritesWithY s t rd (BitVec.ofInt 32 q) (BitVec.ofInt 32 m)) ∧
      ∃ t, exec (.sdivcc rd ro1 o) s = .next t ∧
        WritesWithYCodes s t rd (BitVec.ofInt 32 q) (BitVec.ofInt 32 m) (decide (q < 0)) (decide (q = 0)) false false

/-- The four divisions where the quotient does not fit: they complete, and rd, Y and, for the `cc` forms, the condition
codes are the free value of `DIV_OVERFLOW` at the dividend and the divisor, whatever it is (R206, decision D16; log
entry 8); nothing else changes. -/
def Obligations.DivisionOverflow : Prop :=
  ∀ (s : State) (rd ro1 : RegNum) (o : Operand2) (free : Config.DivValue),
    (s.op2Unsigned o ≠ 0 → (s.op2Unsigned o).toNat ≤ s.y.toNat →
      free = Config.divOverflow false (s.y ++ s.reg ro1) (s.op2Unsigned o) →
      (∃ t, exec (.udiv rd ro1 o) s = .next t ∧ WritesWithY s t rd free.quotient free.remainder) ∧
      ∃ t, exec (.udivcc rd ro1 o) s = .next t ∧
        WritesWithYCodes s t rd free.quotient free.remainder free.n free.z free.v free.c) ∧
    (s.op2 o ≠ 0 →
      ((s.y ++ s.reg ro1).toInt.tdiv (s.op2 o).toInt < -2 ^ 31 ∨
        2 ^ 31 - 1 < (s.y ++ s.reg ro1).toInt.tdiv (s.op2 o).toInt) →
      free = Config.divOverflow true (s.y ++ s.reg ro1) (s.op2 o) →
      (∃ t, exec (.sdiv rd ro1 o) s = .next t ∧ WritesWithY s t rd free.quotient free.remainder) ∧
      ∃ t, exec (.sdivcc rd ro1 o) s = .next t ∧
        WritesWithYCodes s t rd free.quotient free.remainder free.n free.z free.v free.c)

/-- The four divisions with divisor 0 raise `division_by_zero`, 0x2A, and write neither rd, Y nor a condition code
(R207, decision D18; log entry 41). -/
def Obligations.DivisionByZeroTraps : Prop :=
  ∀ (s : State) (rd ro1 : RegNum) (o : Operand2),
    (s.op2Unsigned o = 0 → Raises s (exec (.udiv rd ro1 o) s) 0x2A ∧ Raises s (exec (.udivcc rd ro1 o) s) 0x2A) ∧
    (s.op2 o = 0 → Raises s (exec (.sdiv rd ro1 o) s) 0x2A ∧ Raises s (exec (.sdivcc rd ro1 o) s) 0x2A)

/-- The shifts as arithmetic on numbers: times 2^n modulo 2^32, floor division of the unsigned value, floor division of
the signed value, for n the low five bits of the register or the constant (R221 to R223, decision D19; log entry 37).
They always complete and nothing else changes. -/
def Obligations.Shifts : Prop :=
  ∀ (s : State) (rd ro1 : RegNum) (o : ShiftCount) (n : Nat),
    n = s.countOperand o →
    CompletesWriting (.sll rd ro1 o) s rd (BitVec.ofNat 32 ((s.reg ro1).toNat * 2 ^ n)) ∧
    CompletesWriting (.srl rd ro1 o) s rd (BitVec.ofNat 32 ((s.reg ro1).toNat / 2 ^ n)) ∧
    CompletesWriting (.sra rd ro1 o) s rd (BitVec.ofInt 32 ((s.reg ro1).toInt / 2 ^ n))

/-- `sethi`: its words (but `nop`'s, which has the same effect), `const22 << 10`, that it always completes, and that
nothing else changes. -/
def Obligations.SethiResult : Prop :=
  ∀ (s : State) (rd : RegNum) (c : BitVec 22),
    (¬ (rd = 0 ∧ c = 0) → decode (0b00#2 ++ rd ++ 0b100#3 ++ c) = .instr (.sethi rd c)) ∧
    CompletesWriting (.sethi rd c) s rd (BitVec.ofNat 32 (c.toNat * 1024))

/-- `nop`: its word, and that it always completes and moves the program counters alone. -/
def Obligations.NopResult : Prop :=
  decode 0x01000000 = .instr .nop ∧
    ∀ s : State, ∃ t, exec .nop s = .next t ∧ MovesOnly s t ∧ Sequential s t

/-! ### Control transfers, windows and software traps -/

/-- Every branch, by its condition (`branchOf`): taken, it goes to `npc + 4 * disp22` after the delay instruction; not
taken, it goes on, skipping the delay instruction when the annul bit is set (R235, decision D20; log entry 18). It
always completes and changes the program counters alone. -/
def Obligations.Branches : Prop :=
  ∀ (c : Cond) (a : Bool) (d : BitVec 22) (s : State),
    ∃ t, exec (branchOf c a d) s = .next t ∧ MovesOnly s t ∧
      (condTrue c s.psr = true → Transfers s t (s.npc + BitVec.ofInt 32 (4 * d.toInt))) ∧
      (condTrue c s.psr = false → a = false → Sequential s t) ∧
      (condTrue c s.psr = false → a = true → t.pc = s.npc + 4 ∧ t.npc = s.npc + 8)

/-- `jmp` to a multiple of 4: the target goes to rd and becomes npc (R261); nothing else changes. -/
def Obligations.JumpResult : Prop :=
  ∀ (s : State) (rd ro1 : RegNum) (o : Operand2) (target : Word),
    target = s.reg ro1 + s.op2 o → target.toNat % 4 = 0 →
    ∃ t, exec (.jmp rd ro1 o) s = .next t ∧ OnlyRegister s t s.psr.cwp rd target ∧ KeepsCodes s t ∧
      t.psr.cwp = s.psr.cwp ∧ t.y = s.y ∧ KeepsOthers s t ∧ Transfers s t target

/-- `jmp`, and `rett` in supervisor mode, to an address that is not a multiple of 4 raise `address_not_aligned`, 0x07
(R262, R265, decisions D21 and D31; log entries 19, 20). -/
def Obligations.MisalignedTargetsTrap : Prop :=
  ∀ (s : State) (rd ro1 : RegNum) (o : Operand2), (s.reg ro1 + s.op2 o).toNat % 4 ≠ 0 →
    Raises s (exec (.jmp rd ro1 o) s) 0x07 ∧
    (s.psr.s = true → Raises s (exec (.rett ro1 o) s) 0x07)

/-- `call`: its words, its own address to register 15, and the delayed transfer to `npc + 4 * disp30`. It always
completes and nothing else changes. -/
def Obligations.CallResult : Prop :=
  ∀ (s : State) (d : BitVec 30),
    decode (0b01#2 ++ d) = .instr (.call d) ∧
    ∃ t, exec (.call d) s = .next t ∧ OnlyRegister s t s.psr.cwp 15 s.pc ∧ KeepsCodes s t ∧
      t.psr.cwp = s.psr.cwp ∧ t.y = s.y ∧ KeepsOthers s t ∧ Transfers s t (s.npc + BitVec.ofInt 32 (4 * d.toInt))

/-- `rett` in supervisor mode to a multiple of 4: the window above, traps enabled, S from PS, a delayed transfer; the
condition codes, PIL, PS and everything else stay (R264, decision D31; log entry 20). -/
def Obligations.ReturnFromTrapResult : Prop :=
  ∀ (s : State) (ro1 : RegNum) (o : Operand2) (target : Word),
    s.psr.s = true → target = s.reg ro1 + s.op2 o → target.toNat % 4 = 0 →
    ∃ t, exec (.rett ro1 o) s = .next t ∧ t.psr.cwp.toNat = (s.psr.cwp.toNat + 1) % 32 ∧ t.psr.et = true ∧
      t.psr.s = s.psr.ps ∧ t.psr.ps = s.psr.ps ∧ t.psr.pil = s.psr.pil ∧ KeepsCodes s t ∧ KeepsRegisters s t ∧
      t.y = s.y ∧ KeepsSpecial s t ∧ KeepsMemory s t ∧ KeepsRest s t ∧ Transfers s t target

/-- `save`: its words; with the WIM bit of the window below clear it moves there and writes the sum of the old window's
operands to rd of the new one; with the bit set it raises `window_overflow`, 0x05, and moves nothing. -/
def Obligations.SaveResult : Prop :=
  ∀ (s : State) (rd ro1 : RegNum) (o : Operand2) (w : Nat), w = (s.psr.cwp.toNat + 31) % 32 →
    decode (word3 0b10 rd 0b111100 ro1 (operandBits o)) = .instr (.save rd ro1 o) ∧
    (s.wim.getLsbD w = false →
      ∃ t, exec (.save rd ro1 o) s = .next t ∧ t.psr.cwp = BitVec.ofNat 5 w ∧
        OnlyRegister s t (BitVec.ofNat 5 w) rd (s.reg ro1 + s.op2 o) ∧ KeepsCodes s t ∧ t.y = s.y ∧
        KeepsOthers s t ∧ Sequential s t) ∧
    (s.wim.getLsbD w = true → Raises s (exec (.save rd ro1 o) s) 0x05)

/-- `restore`: its words; with the WIM bit of the window above clear it moves there and writes the sum of the old
window's operands to rd of the new one; with the bit set it raises `window_underflow`, 0x06, and moves nothing. -/
def Obligations.RestoreResult : Prop :=
  ∀ (s : State) (rd ro1 : RegNum) (o : Operand2) (w : Nat), w = (s.psr.cwp.toNat + 1) % 32 →
    decode (word3 0b10 rd 0b111101 ro1 (operandBits o)) = .instr (.restore rd ro1 o) ∧
    (s.wim.getLsbD w = false →
      ∃ t, exec (.restore rd ro1 o) s = .next t ∧ t.psr.cwp = BitVec.ofNat 5 w ∧
        OnlyRegister s t (BitVec.ofNat 5 w) rd (s.reg ro1 + s.op2 o) ∧ KeepsCodes s t ∧ t.y = s.y ∧
        KeepsOthers s t ∧ Sequential s t) ∧
    (s.wim.getLsbD w = true → Raises s (exec (.restore rd ro1 o) s) 0x06)

/-- A software trap whose condition holds (`softTrapOf`), in either mode, with traps enabled: trap entry with type
0x80 + TN, TN the low seven bits of the sum; with traps disabled, error mode (R288, decision D23; log entry 21). -/
def Obligations.SoftwareTrapTaken : Prop :=
  ∀ (c : Cond) (s : State) (ro1 : RegNum) (o : Operand2), condTrue c s.psr = true →
    Raises s (exec (softTrapOf c ro1 o) s) (BitVec.ofNat 8 (0x80 + (s.reg ro1 + s.op2 o).toNat % 128))

/-- A software trap whose condition does not hold (`tn` always) completes and changes the program counters alone
(R288, R289(g)). -/
def Obligations.SoftwareTrapNotTaken : Prop :=
  ∀ (c : Cond) (s : State) (ro1 : RegNum) (o : Operand2), condTrue c s.psr = false →
    ∃ t, exec (softTrapOf c ro1 o) s = .next t ∧ MovesOnly s t ∧ Sequential s t

/-! ### State registers and privilege -/

/-- The reads of the state registers: `rd %y` in both modes, the others in supervisor mode (decision D12; log entry
24), with the fields of PSR and TBR in their places and zeros in the reserved bits (decision D40; log entry 23). -/
def Obligations.StateRegisterReads : Prop :=
  ∀ (s : State) (rd : RegNum),
    CompletesWriting (.rdY rd) s rd s.y ∧
    (s.psr.s = true →
      CompletesWriting (.rdBase rd) s rd s.base ∧
      CompletesWriting (.rdLimite rd) s rd s.limite ∧
      CompletesWriting (.rdWim rd) s rd s.wim ∧
      CompletesWriting (.rdTbr rd) s rd (BitVec.ofNat 32 (s.tbr.tba.toNat * 4096 + s.tbr.tt.toNat * 16)) ∧
      CompletesWriting (.rdPsr rd) s rd
        (BitVec.ofNat 32 (s.psr.n.toNat * 2 ^ 23 + s.psr.z.toNat * 2 ^ 22 + s.psr.v.toNat * 2 ^ 21 +
          s.psr.c.toNat * 2 ^ 20 + s.psr.pil.toNat * 2 ^ 8 + s.psr.s.toNat * 2 ^ 7 + s.psr.ps.toNat * 2 ^ 6 +
          s.psr.et.toNat * 2 ^ 5 + s.psr.cwp.toNat)))

/-- The writes of Y (both modes), BASE, LIMITE, WIM and TBR (supervisor mode; decision D12, log entry 24): the exclusive
or of the operands, for TBR its bits 31..12 alone (decision D25; log entry 23); nothing else changes. -/
def Obligations.StateRegisterWrites : Prop :=
  ∀ (s : State) (ro1 : RegNum) (o : Operand2) (v : Word), v = s.reg ro1 ^^^ s.op2 o →
    (∃ t, exec (.wrY ro1 o) s = .next t ∧ t.y = v ∧ KeepsRegisters s t ∧ KeepsCodes s t ∧ t.psr.cwp = s.psr.cwp ∧
      KeepsOthers s t ∧ Sequential s t) ∧
    (s.psr.s = true →
      (∃ t, exec (.wrBase ro1 o) s = .next t ∧ t.base = v ∧ t.limite = s.limite ∧ t.wim = s.wim ∧ t.tbr = s.tbr ∧
        t.y = s.y ∧ t.psr = s.psr ∧ KeepsRegisters s t ∧ KeepsMemory s t ∧ KeepsRest s t ∧ Sequential s t) ∧
      (∃ t, exec (.wrLimite ro1 o) s = .next t ∧ t.limite = v ∧ t.base = s.base ∧ t.wim = s.wim ∧ t.tbr = s.tbr ∧
        t.y = s.y ∧ t.psr = s.psr ∧ KeepsRegisters s t ∧ KeepsMemory s t ∧ KeepsRest s t ∧ Sequential s t) ∧
      (∃ t, exec (.wrWim ro1 o) s = .next t ∧ t.wim = v ∧ t.base = s.base ∧ t.limite = s.limite ∧ t.tbr = s.tbr ∧
        t.y = s.y ∧ t.psr = s.psr ∧ KeepsRegisters s t ∧ KeepsMemory s t ∧ KeepsRest s t ∧ Sequential s t) ∧
      ∃ t, exec (.wrTbr ro1 o) s = .next t ∧ t.tbr.tba.toNat = v.toNat / 4096 ∧ t.tbr.tt = s.tbr.tt ∧
        t.base = s.base ∧ t.limite = s.limite ∧ t.wim = s.wim ∧ t.y = s.y ∧ t.psr = s.psr ∧ KeepsRegisters s t ∧
        KeepsMemory s t ∧ KeepsRest s t ∧ Sequential s t)

/-- `wr %psr` in supervisor mode: every field takes its bits of the value, and the window pointer, the mode and the
condition codes are the new ones at once; a PSR written with the value of a PSR is that PSR (R323, decisions D12 and
D25; log entries 23, 24). Nothing else changes. -/
def Obligations.PsrWrite : Prop :=
  ∀ (s : State) (ro1 : RegNum) (o : Operand2) (v : Word), v = s.reg ro1 ^^^ s.op2 o → s.psr.s = true →
    ∃ t, exec (.wrPsr ro1 o) s = .next t ∧
      HasCodes t (v.getLsbD 23) (v.getLsbD 22) (v.getLsbD 21) (v.getLsbD 20) ∧
      t.psr.pil.toNat = v.toNat / 2 ^ 8 % 16 ∧ t.psr.s = v.getLsbD 7 ∧ t.psr.ps = v.getLsbD 6 ∧
      t.psr.et = v.getLsbD 5 ∧ t.psr.cwp.toNat = v.toNat % 32 ∧ t.psr.toWord = v &&& 0x00F00FFF ∧
      (∀ p : Psr, v = p.toWord → t.psr = p) ∧
      t.y = s.y ∧ KeepsRegisters s t ∧ KeepsSpecial s t ∧ KeepsMemory s t ∧ KeepsRest s t ∧ Sequential s t

/-- Each of the eleven privileged instructions in user mode raises `privileged_instruction`, 0x03, and changes nothing
else (R441, decision D12; log entry 24). -/
def Obligations.PrivilegedInstructionsTrap : Prop :=
  ∀ (i : Instr) (s : State), isPrivileged i = true → s.psr.s = false → Raises s (exec i s) 0x03

/-! ### Memory -/

/-- The five loads, where the access is aligned, permitted and answered by memory: the bytes at the absolute address,
the lowest the least significant (decision D1; log entry 13), zero-filled or with the sign of their width; nothing else
changes (R153 to R157). -/
def Obligations.LoadsFromMemory : Prop :=
  ∀ (s : State) (rd ro1 : RegNum) (o : Operand2) (p : Word) (a : Nat),
    p = s.reg ro1 + s.op2 o → a = (s.absolute p).toNat → s.baseUsable = true → s.answers p = .memory →
    (p.toNat % 4 = 0 → s.permitted p 4 = true →
      CompletesWriting (.ld rd ro1 o) s rd (BitVec.ofNat 32 (littleEndian s.mem a 4))) ∧
    (s.permitted p 1 = true →
      CompletesWriting (.ldub rd ro1 o) s rd (BitVec.ofNat 32 (littleEndian s.mem a 1)) ∧
      CompletesWriting (.ldsb rd ro1 o) s rd ((BitVec.ofNat 8 (littleEndian s.mem a 1)).signExtend 32)) ∧
    (p.toNat % 2 = 0 → s.permitted p 2 = true →
      CompletesWriting (.lduh rd ro1 o) s rd (BitVec.ofNat 32 (littleEndian s.mem a 2)) ∧
      CompletesWriting (.ldsh rd ro1 o) s rd ((BitVec.ofNat 16 (littleEndian s.mem a 2)).signExtend 32))

/-- The three stores, where the access is aligned, permitted and answered by memory: the bytes from the absolute address
hold the low bytes of rd, the lowest address the least significant (decision D1; log entry 13); every other byte reads
as before, and no register or flag changes (R158 to R160). -/
def Obligations.StoresToMemory : Prop :=
  ∀ (s : State) (rd ro1 : RegNum) (o : Operand2) (p : Word) (a : Nat),
    p = s.reg ro1 + s.op2 o → a = (s.absolute p).toNat → s.baseUsable = true → s.answers p = .memory →
    ∀ (i : Instr) (n : Nat), (i = .st rd ro1 o ∧ n = 4) ∨ (i = .sth rd ro1 o ∧ n = 2) ∨ (i = .stb rd ro1 o ∧ n = 1) →
      p.toNat % n = 0 → s.permitted p n = true →
      ∃ t, exec i s = .next t ∧ KeepsRegisters s t ∧ AccessFrame s t ∧ t.deviceLog = s.deviceLog ∧
        ∀ b : Nat, Memory.read t.mem b =
          if a ≤ b ∧ b < a + n then BitVec.ofNat 8 ((s.reg rd).toNat / 256 ^ (b - a)) else Memory.read s.mem b

/-- Loads and stores answered by a device: a load takes its bytes from the free word the device drives, a store writes
no memory; each makes exactly one cycle, which the device log records (R94, R100, decision D39; log entry 6). -/
def Obligations.DeviceAccesses : Prop :=
  ∀ (s : State) (rd ro1 : RegNum) (o : Operand2) (p : Word) (w : BitVec 30) (k : Nat) (driven : Word),
    p = s.reg ro1 + s.op2 o → w = wordIndex (s.absolute p) → k = (s.absolute p).toNat % 4 →
    driven = Config.deviceWord s.deviceLog w → s.baseUsable = true → s.answers p = .device →
    (∀ (i : Instr) (n : Nat) (v : Word),
      (i = .ld rd ro1 o ∧ n = 4 ∧ v = driven) ∨
      (i = .ldub rd ro1 o ∧ n = 1 ∧ v = (driven.extractLsb' (8 * k) 8).setWidth 32) ∨
      (i = .ldsb rd ro1 o ∧ n = 1 ∧ v = (driven.extractLsb' (8 * k) 8).signExtend 32) ∨
      (i = .lduh rd ro1 o ∧ n = 2 ∧ v = (driven.extractLsb' (8 * k) 16).setWidth 32) ∨
      (i = .ldsh rd ro1 o ∧ n = 2 ∧ v = (driven.extractLsb' (8 * k) 16).signExtend 32) →
      p.toNat % n = 0 → s.permitted p n = true →
      ∃ t, exec i s = .next t ∧ OnlyRegister s t s.psr.cwp rd v ∧ AccessFrame s t ∧
        (∀ b, Memory.read t.mem b = Memory.read s.mem b) ∧ t.deviceLog = .read w :: s.deviceLog) ∧
    ∀ (i : Instr) (z : Size), (i = .st rd ro1 o ∧ z = .word) ∨ (i = .sth rd ro1 o ∧ z = .half) ∨
        (i = .stb rd ro1 o ∧ z = .byte) →
      p.toNat % z.bytes = 0 → s.permitted p z.bytes = true →
      ∃ t, exec i s = .next t ∧ KeepsRegisters s t ∧ AccessFrame s t ∧
        (∀ b, Memory.read t.mem b = Memory.read s.mem b) ∧
        t.deviceLog = .write w (storeLanes z (lane (s.absolute p))) (alignStore z (lane (s.absolute p)) (s.reg rd)) ::
          s.deviceLog

/-- What stops a load or a store before its bus cycle, in this order: a misaligned address (0x07), in user mode an
access not wholly below LIMITE (0x09), in user mode a BASE that is not a multiple of 4 (refused: U9, log entry 10); and
what its bus cycle can end in: ERR (0x29 for a load, 0x2B for a store), no answer (no further step). (R85, R81, R88,
R89, R92, R93; decisions D4 to D7; log entries 11, 25, 26.) -/
def Obligations.DataAccessStops : Prop :=
  ∀ (s : State) (rd ro1 : RegNum) (o : Operand2) (p : Word), p = s.reg ro1 + s.op2 o →
    ∀ (i : Instr) (n : Nat) (onErr : BitVec 8),
      (i = .ld rd ro1 o ∧ n = 4 ∧ onErr = 0x29) ∨ (i = .lduh rd ro1 o ∧ n = 2 ∧ onErr = 0x29) ∨
      (i = .ldsh rd ro1 o ∧ n = 2 ∧ onErr = 0x29) ∨ (i = .ldub rd ro1 o ∧ n = 1 ∧ onErr = 0x29) ∨
      (i = .ldsb rd ro1 o ∧ n = 1 ∧ onErr = 0x29) ∨ (i = .st rd ro1 o ∧ n = 4 ∧ onErr = 0x2B) ∨
      (i = .sth rd ro1 o ∧ n = 2 ∧ onErr = 0x2B) ∨ (i = .stb rd ro1 o ∧ n = 1 ∧ onErr = 0x2B) →
      (p.toNat % n ≠ 0 → Raises s (exec i s) 0x07) ∧
      (p.toNat % n = 0 → s.psr.s = false → s.limite.toNat < p.toNat + n → Raises s (exec i s) 0x09) ∧
      (p.toNat % n = 0 → s.psr.s = false → p.toNat + n ≤ s.limite.toNat → s.base.toNat % 4 ≠ 0 →
        exec i s = .refused .misalignedBase) ∧
      (p.toNat % n = 0 → s.permitted p n = true → s.baseUsable = true → s.answers p = .error →
        Raises s (exec i s) onErr) ∧
      (p.toNat % n = 0 → s.permitted p n = true → s.baseUsable = true → s.answers p = .nobody →
        exec i s = .fault .busNoAnswer)

/-- A word stored to memory is seen byte by byte and halfword by halfword by the loads after it, and by the next fetch
when it is stored where the next instruction is (R74, R97; decisions D1, D9; log entries 13, 36). -/
def Obligations.StoredWordIsSeen : Prop :=
  ∀ (s t : State) (rd ro1 : RegNum) (o : Operand2), exec (.st rd ro1 o) s = .next t →
    (s.reg ro1 + s.op2 o).toNat % 4 = 0 → s.permitted (s.reg ro1 + s.op2 o) 4 = true → s.baseUsable = true →
    s.answers (s.reg ro1 + s.op2 o) = .memory →
    (∀ (rd' ro1' : RegNum) (o' : Operand2) (k : Nat), k < 4 →
      t.reg ro1' + t.op2 o' = s.reg ro1 + s.op2 o + BitVec.ofNat 32 k →
      CompletesWriting (.ldub rd' ro1' o') t rd' (((s.reg rd).extractLsb' (8 * k) 8).setWidth 32) ∧
      (k % 2 = 0 → CompletesWriting (.lduh rd' ro1' o') t rd' (((s.reg rd).extractLsb' (8 * k) 16).setWidth 32)) ∧
      (k = 0 → CompletesWriting (.ld rd' ro1' o') t rd' (s.reg rd))) ∧
    (s.reg ro1 + s.op2 o = s.npc → fetch t = .done (s.reg rd) t)

/-! ### Traps and interrupts -/

/-- Trap entry and error mode. Every synchronous trap: with traps enabled the state of R420, with them disabled error
mode and no other change (R420, R424). Every interrupt of a line 1 to 15 that is entered with traps enabled: the state
of R420 with type 0x10 + n; with them disabled none is entered (`InterruptSelection`). (Decisions D27, D29, D35; log
entries 12, 27.) -/
def Obligations.TrapEntry : Prop :=
  (∀ (t : TrapType) (s : State), (∀ n, t ≠ .interruptLevel n) → Raises s (raise t s) t.code) ∧
  ∀ (n : BitVec 4) (s : State), 1 ≤ n.toNat → s.psr.et = true →
    TrapEntered s (s.takeTrap (.interruptLevel n)) (BitVec.ofNat 8 (0x10 + n.toNat))

/-- After any trap, the handler's `jmp %g0, 0, %l1` and `rett 0, %l2` bring back both program counters, the window, the
mode and ET as they were, every register but the two the trap wrote, the condition codes, PIL, Y and the memory; PS
holds the old mode (R266). It rests on `rett` as decision D31 has it (log entry 20) and on trap entry as decisions D27
and D35 have it (log entry 27). -/
def Obligations.HandlerReturns : Prop :=
  ∀ (s : State) (tt : TrapType), s.psr.et = true → s.pc.toNat % 4 = 0 → s.npc.toNat % 4 = 0 →
    ∃ t u v, raise tt s = .next t ∧ exec (.jmp 0 17 (.imm 0)) t = .next u ∧ exec (.rett 18 (.imm 0)) u = .next v ∧
      v.pc = s.pc ∧ v.npc = s.npc ∧ v.psr = { s.psr with ps := s.psr.s } ∧ v.y = s.y ∧ v.wim = s.wim ∧
      v.base = s.base ∧ v.limite = s.limite ∧ v.tbr.tba = s.tbr.tba ∧ KeepsMemory s v ∧ KeepsRest s v ∧
      (∀ i, v.glob.get i = s.glob.get i) ∧
      ∀ j : Fin 512, j.val ≠ ((s.psr.cwp - 1).toNat * 16 + 9) % 512 →
        j.val ≠ ((s.psr.cwp - 1).toNat * 16 + 10) % 512 → v.win.get j = s.win.get j

/-- Which interrupt is accepted before a step: with traps enabled the highest line at 1 above PIL, and none otherwise
(R431, decisions D30 and D36; log entry 29). -/
def Obligations.InterruptSelection : Prop :=
  ∀ s : State,
    (∀ m : BitVec 4, s.acceptedInterrupt = some m ↔
      s.psr.et = true ∧ 1 ≤ m.toNat ∧ s.irqLine m.toNat = true ∧ s.psr.pil.toNat < m.toNat ∧
        ∀ k, m.toNat < k → k ≤ 15 → s.irqLine k = false) ∧
    (s.acceptedInterrupt = none ↔
      s.psr.et = false ∨ ∀ k, 1 ≤ k → k ≤ 15 → s.irqLine k = true → k ≤ s.psr.pil.toNat)

/-- A step whose interrupt check accepts line m enters trap 0x10 + m from the state of the check, without fetching; the
environment's midway writes follow (R431, decision D30; log entries 5, 29). -/
def Obligations.StepTakesInterrupt : Prop :=
  ∀ (s : State) (m : BitVec 4), s.beginTurn.errorMode = false → s.beginTurn.acceptedInterrupt = some m →
    ∃ t, TrapEntered s.beginTurn t (BitVec.ofNat 8 (0x10 + m.toNat)) ∧ step s = .next (t.masterWrites s.turn.midway)

/-! ### The step -/

/-- With no input left, not in error mode and no interrupt accepted: when the four bytes at an aligned program counter,
in memory and permitted, decode to an instruction, the step is the instruction's meaning at this state; the meaning
itself moves the program counters. -/
def Obligations.StepRunsInstruction : Prop :=
  ∀ (s : State) (i : Instr) (a : Nat), s.inputs = [] → s.errorMode = false → s.acceptedInterrupt = none →
    s.pc.toNat % 4 = 0 → s.permitted s.pc 4 = true → s.baseUsable = true → s.answers s.pc = .memory →
    a = (s.absolute s.pc).toNat →
    decodeBytes [Memory.read s.mem a, Memory.read s.mem (a + 1), Memory.read s.mem (a + 2), Memory.read s.mem (a + 3)] =
      some (.instr i, []) →
    step s = exec i s

/-- The same with the environment's turn: its events come first, and other masters' midway writes fall between the
fetch and the execution (R99; log entry 5). -/
def Obligations.StepRunsInstructionInTurn : Prop :=
  ∀ (s b : State) (i : Instr), b = s.beginTurn → b.errorMode = false → b.acceptedInterrupt = none →
    b.permitted b.pc 4 = true → b.baseUsable = true → b.answers b.pc = .memory →
    decode (Memory.readWord b.mem (wordIndex (b.absolute b.pc))) = .instr i →
    step s = exec i (b.masterWrites s.turn.midway)

/-- A step that fetches an unassigned word raises `illegal_instruction`, 0x02 (R131, R406, decision D10; log entry 33);
one that fetches a word with a non-zero reserved field is refused (R132, decision D11; log entry 9). -/
def Obligations.StepOnWordsWithoutInstruction : Prop :=
  ∀ (s : State) (w : Word), s.inputs = [] → s.errorMode = false → s.acceptedInterrupt = none →
    s.permitted s.pc 4 = true → s.baseUsable = true → s.answers s.pc = .memory →
    w = Memory.readWord s.mem (wordIndex (s.absolute s.pc)) →
    (decode w = .unassigned → Raises s (step s) 0x02) ∧
    (decode w = .reservedField → step s = .refused .reservedField)

/-- What stops a fetch: in user mode an address not wholly below LIMITE (0x01), a BASE that is not a multiple of 4
(refused: U9, log entry 10), ERR on the bus (0x21), no answer (no further step). (R90, R92, R93, R405, R411; decisions
D5 to D7; log entries 11, 25, 26.) -/
def Obligations.FetchStops : Prop :=
  ∀ s : State, s.inputs = [] → s.errorMode = false → s.acceptedInterrupt = none →
    (s.psr.s = false → s.limite.toNat < s.pc.toNat + 4 → Raises s (step s) 0x01) ∧
    (s.psr.s = false → s.pc.toNat + 4 ≤ s.limite.toNat → s.base.toNat % 4 ≠ 0 →
      step s = .refused .misalignedBase) ∧
    (s.permitted s.pc 4 = true → s.baseUsable = true → s.answers s.pc = .error → Raises s (step s) 0x21) ∧
    (s.permitted s.pc 4 = true → s.baseUsable = true → s.answers s.pc = .nobody → step s = .fault .busNoAnswer)

/-- Error mode: with no input left there is no further step; while input is left a step without events changes nothing
but the input; and no step leaves error mode unless its turn holds a reset (R404 line 0, R424, R460; decision D29; log
entry 12). -/
def Obligations.ErrorModeLastsUntilReset : Prop :=
  ∀ s : State, s.errorMode = true →
    (s.inputs = [] → step s = .fault .errorMode) ∧
    (∀ rest, rest ≠ [] → s.inputs = { before := [], midway := [] } :: rest →
      step s = .next { s with inputs := rest }) ∧
    ∀ t, step s = .next t → t.errorMode = false → EnvEvent.reset ∈ s.turn.before

/-! ### Reset -/

/-- What reset leaves on an instance with any parameters, at power-on and by the RESET input: all registers 0 and the
memory its image (R51); the program counters and PSR as the parameters `RESET_PC` and `RESET_PSR` say, and 0 in the
special registers (R460, R461; decision D33, log entry 1; the reserved bits of PSR are 0, decision D25, log entry 23);
the RESET input leaves the lines as the devices drive them. -/
def Obligations.ResetState : Prop :=
  ∀ (p : Platform) (s t : State), s.platform = p → (t = p.resetState ∨ t = s.event .reset) →
    (∀ i, t.glob.get i = 0) ∧ (∀ j, t.win.get j = 0) ∧ t.mem = p.image ∧ t.pc = p.resetPc ∧ t.npc = p.resetPc + 4 ∧
      t.psr.toWord = p.resetPsr &&& 0x00F00FFF ∧ t.y = 0 ∧ t.wim = 0 ∧ t.tbr.toWord = 0 ∧ t.base = 0 ∧
      t.limite = 0 ∧ t.errorMode = false ∧ t.platform = p ∧ (t = s.event .reset → t.irq = s.irq)

/-- The defaults of decision D33 (log entry 1): `State.reset` is the reset of the default parameters, at program address
0 in supervisor mode with traps disabled. -/
def Obligations.DefaultResetState : Prop :=
  State.reset = Platform.default.resetState ∧ State.reset.pc = 0 ∧ State.reset.npc = 4 ∧
    State.reset.psr.toWord = 0x00000080

/-! ### Invariants and whole-machine rules -/

/-- The invariant holds right after reset. -/
def Obligations.ResetMeetsInvariant : Prop := State.reset.Inv

/-- Every step keeps the invariant, whatever the environment does: memory and its image stay in canonical form, `G[0]`
stays 0 (R21), and both program counters (R34) and the parameter `RESET_PC` stay multiples of 4. -/
def Obligations.StepKeepsInvariant : Prop :=
  ∀ s t : State, s.Inv → step s = .next t → t.Inv

/-- No instruction executed in user mode changes BASE, LIMITE, WIM, the trap table's base or PIL; one after which user
mode lasts changes neither ET nor PS nor the trap type; and with traps enabled none enters error mode (R441, R443;
decision D12; log entry 24). -/
def Obligations.UserModeCannotChangeProtection : Prop :=
  ∀ (i : Instr) (s t : State), s.psr.s = false → exec i s = .next t →
    t.base = s.base ∧ t.limite = s.limite ∧ t.wim = s.wim ∧ t.tbr.tba = s.tbr.tba ∧ t.psr.pil = s.psr.pil ∧
      (t.psr.s = false → t.psr.et = s.psr.et ∧ t.psr.ps = s.psr.ps ∧ t.tbr.tt = s.tbr.tt) ∧
      (s.psr.et = true → t.errorMode = s.errorMode)

/-- A byte of memory that an instruction changes in user mode lies between BASE and BASE + LIMITE: it is the relocation
of a program address below LIMITE (R80, R81, R442; decisions D4, D5; log entry 25). -/
def Obligations.UserModeStoresAreConfined : Prop :=
  ∀ (i : Instr) (s t : State) (b : Nat), s.psr.s = false → exec i s = .next t →
    Memory.read t.mem b ≠ Memory.read s.mem b →
    ∃ p : Word, p.toNat < s.limite.toNat ∧ b = (p + s.base).toNat

/-- An instruction enters supervisor mode only by trap entry, and leaves it only by `rett` with PS = 0 or by `wr %psr`
with bit 7 of the value 0 (R443; decisions D12 and D31; log entries 20, 24). -/
def Obligations.ModeTransitions : Prop :=
  ∀ (i : Instr) (s t : State), exec i s = .next t →
    (s.psr.s = false → t.psr.s = true → TrapEntered s t t.tbr.tt) ∧
    (s.psr.s = true → t.psr.s = false →
      (∃ ro1 o, i = .rett ro1 o ∧ s.psr.ps = false) ∨
      ∃ ro1 o, i = .wrPsr ro1 o ∧ (s.reg ro1 ^^^ s.op2 o).getLsbD 7 = false)

/-- Only the twelve `cc` instructions and `wr %psr` change a condition code (R36), only the multiplications, divisions
and `wr %y` change Y (R44), and only `save`, `restore`, `rett`, `wr %psr` and trap entry change the window pointer (R27). -/
def Obligations.OnlyNamedInstructionsChange : Prop :=
  ∀ (i : Instr) (s t : State), exec i s = .next t →
    (¬ KeepsCodes s t → writesCodes i = true) ∧
    (t.y ≠ s.y → writesY i = true) ∧
    (t.psr.cwp ≠ s.psr.cwp → movesWindow i = true ∨ TrapEntered s t t.tbr.tt)

/-- Along a run of any length from a state that meets the invariant, whatever the stop address and whatever ends the
run, the state it ends in meets the invariant (R34, R454). -/
def Obligations.RunsKeepInvariant : Prop :=
  ∀ (stopPc : Option Word) (n : Nat) (s : State), s.Inv → (run stopPc n s).state.Inv

/-- The end of a run (R454; decisions D29, D34; log entries 12, 35). A run ends at once in error mode, whatever input is
left, and at the stop address without executing the instruction there; it ends in the state of the step that enters
error mode; a stuck step ends it with the registers and counters of the moment. And whatever a run answers is
so: error mode, the stop address, a stuck step. -/
def Obligations.RunEnds : Prop :=
  ∀ (stopPc : Option Word) (n : Nat) (s : State),
    (s.errorMode = true → run stopPc n s = { why := .errorMode, state := s }) ∧
    (s.errorMode = false → stopPc = some s.pc → run stopPc n s = { why := .stopAddress, state := s }) ∧
    (s.errorMode = false → stopPc ≠ some s.pc → stopPc ≠ some s.beginTurn.pc →
      (∀ t, step s = .next t → t.errorMode = true → run stopPc (n + 1) s = { why := .errorMode, state := t }) ∧
      (step s = .fault .busNoAnswer → run stopPc (n + 1) s = { why := .stuck, state := s.stopped } ∧
        ∃ m d, s.stopped = { s.beginTurn with mem := m, deviceLog := d })) ∧
    ((run stopPc n s).why = .errorMode → (run stopPc n s).state.errorMode = true) ∧
    ((run stopPc n s).why = .stopAddress → stopPc = some (run stopPc n s).state.pc) ∧
    ((run stopPc n s).why = .stuck → ∃ u, step u = .fault .busNoAnswer ∧ (run stopPc n s).state = u.stopped)
end

