-- ==== Sys2Proof/Laws/Decode.lean ====
section
/-! SUPPORT. The fields of the words the encoder writes, and the bytes of a word. -/
namespace Sys2Proof

/-! ### Fields of a format-3 word (R114) -/

section
variable (op : BitVec 2) (rd : RegNum) (op3 : BitVec 6) (ro1 : RegNum) (low : BitVec 14)

@[simp] theorem opField_word3 : opField (word3 op rd op3 ro1 low) = op := by
  apply BitVec.eq_of_getLsbD_eq; intro i hi
  simp only [opField, word3, BitVec.getLsbD_extractLsb', BitVec.getLsbD_append]
  obtain rfl | rfl : i = 0 ∨ i = 1 := by omega
  all_goals simp

@[simp] theorem rdField_word3 : rdField (word3 op rd op3 ro1 low) = rd := by
  apply BitVec.eq_of_getLsbD_eq; intro i hi
  simp only [rdField, word3, BitVec.getLsbD_extractLsb', BitVec.getLsbD_append]
  interval_cases i <;> simp

@[simp] theorem op3Field_word3 : op3Field (word3 op rd op3 ro1 low) = op3 := by
  apply BitVec.eq_of_getLsbD_eq; intro i hi
  simp only [op3Field, word3, BitVec.getLsbD_extractLsb', BitVec.getLsbD_append]
  interval_cases i <;> simp

@[simp] theorem ro1Field_word3 : ro1Field (word3 op rd op3 ro1 low) = ro1 := by
  apply BitVec.eq_of_getLsbD_eq; intro i hi
  simp only [ro1Field, word3, BitVec.getLsbD_extractLsb', BitVec.getLsbD_append]
  interval_cases i <;> simp

@[simp] theorem low14Field_word3 : low14Field (word3 op rd op3 ro1 low) = low := by
  apply BitVec.eq_of_getLsbD_eq; intro i hi
  simp only [low14Field, word3, BitVec.getLsbD_extractLsb', BitVec.getLsbD_append]
  simp [hi]

end

/-! ### The operand fields are in the low 14 bits -/

theorem iField_low14 (w : Word) : iField w = (low14Field w).getLsbD 13 := by
  simp [iField, low14Field]

theorem zeroField_low14 (w : Word) : zeroField w = (low14Field w).extractLsb' 5 8 := by
  apply BitVec.eq_of_getLsbD_eq; intro i hi
  simp only [zeroField, low14Field, BitVec.getLsbD_extractLsb']
  have : 5 + i < 14 := by omega
  simp [this]

theorem ro2Field_low14 (w : Word) : ro2Field w = (low14Field w).extractLsb' 0 5 := by
  apply BitVec.eq_of_getLsbD_eq; intro i hi
  simp only [ro2Field, low14Field, BitVec.getLsbD_extractLsb']
  have : i < 14 := by omega
  simp [this]

theorem const13Field_low14 (w : Word) : const13Field w = (low14Field w).extractLsb' 0 13 := by
  apply BitVec.eq_of_getLsbD_eq; intro i hi
  simp only [const13Field, low14Field, BitVec.getLsbD_extractLsb']
  have : i < 14 := by omega
  simp [this]

/-- The operand of a word whose low 14 bits are those of `o` (R114, R121). -/
theorem operandField_of_low14 {w : Word} {o : Operand2} (h : low14Field w = operandBits o) :
    operandField w = some o := by
  unfold operandField
  rw [iField_low14, zeroField_low14, ro2Field_low14, const13Field_low14, h]
  cases o with
  | reg r =>
    have h1 : (operandBits (.reg r)).getLsbD 13 = false := by
      simp only [operandBits, BitVec.getLsbD_append]; simp
    have h2 : (operandBits (.reg r)).extractLsb' 5 8 = 0 := by
      apply BitVec.eq_of_getLsbD_eq; intro i hi
      simp only [operandBits, BitVec.getLsbD_extractLsb', BitVec.getLsbD_append]
      interval_cases i <;> simp
    have h3 : (operandBits (.reg r)).extractLsb' 0 5 = r := by
      apply BitVec.eq_of_getLsbD_eq; intro i hi
      simp only [operandBits, BitVec.getLsbD_extractLsb', BitVec.getLsbD_append]
      interval_cases i <;> simp
    rw [h1, h2, h3]; rfl
  | imm c =>
    have h1 : (operandBits (.imm c)).getLsbD 13 = true := by
      simp only [operandBits, BitVec.getLsbD_append]; simp
    have h2 : (operandBits (.imm c)).extractLsb' 0 13 = c := by
      apply BitVec.eq_of_getLsbD_eq; intro i hi
      simp only [operandBits, BitVec.getLsbD_extractLsb', BitVec.getLsbD_append]
      simp [hi]
    rw [h1, h2]; rfl

/-- The count of a word whose low 14 bits are those of `n` (R115, R123). -/
theorem shiftField_of_low14 {w : Word} {n : ShiftCount} (h : low14Field w = shiftBits n) :
    shiftField w = some n := by
  unfold shiftField
  rw [iField_low14, zeroField_low14, ro2Field_low14, h]
  cases n with
  | reg r =>
    have h1 : (shiftBits (.reg r)).getLsbD 13 = false := by
      simp only [shiftBits, BitVec.getLsbD_append]; simp
    have h2 : (shiftBits (.reg r)).extractLsb' 5 8 = 0 := by
      apply BitVec.eq_of_getLsbD_eq; intro i hi
      simp only [shiftBits, BitVec.getLsbD_extractLsb', BitVec.getLsbD_append]
      interval_cases i <;> simp
    have h3 : (shiftBits (.reg r)).extractLsb' 0 5 = r := by
      apply BitVec.eq_of_getLsbD_eq; intro i hi
      simp only [shiftBits, BitVec.getLsbD_extractLsb', BitVec.getLsbD_append]
      interval_cases i <;> simp
    rw [h1, h2, h3]; rfl
  | imm c =>
    have h1 : (shiftBits (.imm c)).getLsbD 13 = true := by
      simp only [shiftBits, BitVec.getLsbD_append]; simp
    have h2 : (shiftBits (.imm c)).extractLsb' 0 5 = c := by
      apply BitVec.eq_of_getLsbD_eq; intro i hi
      simp only [shiftBits, BitVec.getLsbD_extractLsb', BitVec.getLsbD_append]
      interval_cases i <;> simp
    rw [h1, h2]; rfl

@[simp] theorem operandField_word3 (op : BitVec 2) (rd : RegNum) (op3 : BitVec 6) (ro1 : RegNum) (o : Operand2) :
    operandField (word3 op rd op3 ro1 (operandBits o)) = some o :=
  operandField_of_low14 (low14Field_word3 ..)

@[simp] theorem shiftField_word3 (op : BitVec 2) (rd : RegNum) (op3 : BitVec 6) (ro1 : RegNum) (n : ShiftCount) :
    shiftField (word3 op rd op3 ro1 (shiftBits n)) = some n :=
  shiftField_of_low14 (low14Field_word3 ..)

/-! ### Fields of a branch (R113) and of a software trap (R115) -/

section
variable (c : Cond) (a : Bool) (d : BitVec 22)

@[simp] theorem opField_branchWord : opField (branchWord c a d) = 0b00 := by
  apply BitVec.eq_of_getLsbD_eq; intro i hi
  simp only [opField, branchWord, BitVec.getLsbD_extractLsb', BitVec.getLsbD_append]
  interval_cases i <;> simp

@[simp] theorem op2Field_branchWord : op2Field (branchWord c a d) = 0b010 := by
  apply BitVec.eq_of_getLsbD_eq; intro i hi
  simp only [op2Field, branchWord, BitVec.getLsbD_extractLsb', BitVec.getLsbD_append]
  interval_cases i <;> simp

@[simp] theorem condField_branchWord : condField (branchWord c a d) = c.code := by
  apply BitVec.eq_of_getLsbD_eq; intro i hi
  simp only [condField, branchWord, BitVec.getLsbD_extractLsb', BitVec.getLsbD_append]
  interval_cases i <;> simp

@[simp] theorem bit29Field_branchWord : bit29Field (branchWord c a d) = a := by
  simp only [bit29Field, branchWord, BitVec.getLsbD_append]; simp

@[simp] theorem low22Field_branchWord : low22Field (branchWord c a d) = d := by
  apply BitVec.eq_of_getLsbD_eq; intro i hi
  simp only [low22Field, branchWord, BitVec.getLsbD_extractLsb', BitVec.getLsbD_append]
  simp [hi]

end

/-- A software trap is a format-3 word whose bits 29:25 are 0 and the condition (R115). -/
theorem trapWord_eq_word3 (c : Cond) (ro1 : RegNum) (o : Operand2) :
    trapWord c ro1 o = word3 0b10 (0#1 ++ c.code) 0b111010 ro1 (operandBits o) := by
  apply BitVec.eq_of_getLsbD_eq; intro i hi
  simp only [trapWord, word3, BitVec.getLsbD_append]
  by_cases h14 : i < 14
  · simp [h14]
  · by_cases h19 : i - 14 < 5
    · simp [h14, h19]
    · by_cases h25 : i - 14 - 5 < 6
      · simp [h14, h19, h25]
      · have h : i = 25 ∨ i = 26 ∨ i = 27 ∨ i = 28 ∨ i = 29 ∨ i = 30 ∨ i = 31 := by omega
        rcases h with rfl | rfl | rfl | rfl | rfl | rfl | rfl <;> simp

@[simp] theorem condField_trapWord (c : Cond) (ro1 : RegNum) (o : Operand2) :
    condField (trapWord c ro1 o) = c.code := by
  apply BitVec.eq_of_getLsbD_eq; intro i hi
  simp only [condField, trapWord, BitVec.getLsbD_extractLsb', BitVec.getLsbD_append]
  interval_cases i <;> simp

@[simp] theorem bit29Field_trapWord (c : Cond) (ro1 : RegNum) (o : Operand2) :
    bit29Field (trapWord c ro1 o) = false := by
  simp only [bit29Field, trapWord, BitVec.getLsbD_append]; simp

/-! ### The decoder on each shape of word (R118 to R120, R129, R130, R134) -/

/-- op = 11. -/
theorem decode_memory {op3 : BitVec 6} {make : RegNum → RegNum → Operand2 → Instr} (h : memoryRow op3 = some make)
    (rd ro1 : RegNum) (o : Operand2) : decode (word3 0b11 rd op3 ro1 (operandBits o)) = .instr (make rd ro1 o) := by
  simp [decode, decodeOp11, h, Decoded.needs]

/-- op = 10, a destination and a second operand. -/
theorem decode_operand {op3 : BitVec 6} {make : RegNum → RegNum → Operand2 → Instr} (h : operandRow op3 = some make)
    (rd ro1 : RegNum) (o : Operand2) : decode (word3 0b10 rd op3 ro1 (operandBits o)) = .instr (make rd ro1 o) := by
  simp [decode, decodeOp10, h, Decoded.needs]

/-- op = 10, a shift. -/
theorem decode_shift {op3 : BitVec 6} {make : RegNum → RegNum → ShiftCount → Instr} (ho : operandRow op3 = none)
    (h : shiftRow op3 = some make) (rd ro1 : RegNum) (n : ShiftCount) :
    decode (word3 0b10 rd op3 ro1 (shiftBits n)) = .instr (make rd ro1 n) := by
  simp [decode, decodeOp10, ho, h, Decoded.needs]

/-- op = 10, `rett` and the writes of PSR, WIM and TBR. -/
theorem decode_noRd {op3 : BitVec 6} {make : RegNum → Operand2 → Instr} (ho : operandRow op3 = none)
    (hs : shiftRow op3 = none) (h : noRdRow op3 = some make) (ro1 : RegNum) (o : Operand2) :
    decode (word3 0b10 0 op3 ro1 (operandBits o)) = .instr (make ro1 o) := by
  simp [decode, decodeOp10, ho, hs, h, Decoded.needs]

/-- op = 10, the reads of PSR, WIM and TBR. -/
theorem decode_read {op3 : BitVec 6} {make : RegNum → Instr} (ho : operandRow op3 = none) (hs : shiftRow op3 = none)
    (hn : noRdRow op3 = none) (h : readRow op3 = some make) (rd : RegNum) :
    decode (word3 0b10 rd op3 0 0) = .instr (make rd) := by
  simp [decode, decodeOp10, ho, hs, hn, h]

/-- op3 = 101000, the reads of Y, BASE and LIMITE. -/
theorem decode_readSelected {sel : RegNum} {make : RegNum → Instr} (h : readSelected sel = some make) (rd : RegNum) :
    decode (word3 0b10 rd 0b101000 sel 0) = .instr (make rd) := by
  simp [decode, decodeOp10, operandRow, shiftRow, noRdRow, readRow, h]

/-- op3 = 110000, the writes of Y, BASE and LIMITE. -/
theorem decode_writeSelected {sel : RegNum} {make : RegNum → Operand2 → Instr} (h : writeSelected sel = some make)
    (ro1 : RegNum) (o : Operand2) :
    decode (word3 0b10 sel 0b110000 ro1 (operandBits o)) = .instr (make ro1 o) := by
  simp [decode, decodeOp10, operandRow, shiftRow, noRdRow, readRow, h, Decoded.needs]

/-- A software trap. -/
theorem decode_trapWord (c : Cond) (ro1 : RegNum) (o : Operand2) :
    decode (trapWord c ro1 o) = .instr (trapRow c.code ro1 o) := by
  unfold decode decodeOp10
  rw [condField_trapWord, bit29Field_trapWord, trapWord_eq_word3]
  simp [operandRow, shiftRow, noRdRow, readRow, Decoded.needs]

/-- A branch. -/
theorem decode_branchWord (c : Cond) (a : Bool) (d : BitVec 22) :
    decode (branchWord c a d) = .instr (branchRow c.code a d) := by
  simp [decode, decodeFormat2]

/-! ### Bytes -/

/-- A word built from its own bytes. -/
theorem wordOfBytes_byteOfWord (w : Word) :
    wordOfBytes (byteOfWord w 0) (byteOfWord w 1) (byteOfWord w 2) (byteOfWord w 3) = w := by
  apply BitVec.eq_of_getLsbD_eq
  intro i hi
  simp only [wordOfBytes, byteOfWord, BitVec.getLsbD_append, BitVec.getLsbD_extractLsb']
  by_cases h0 : i < 8
  · simp [h0]
  · by_cases h1 : i < 16
    · have : i - 8 < 8 := by omega
      simp [h0, this]; congr 1; omega
    · by_cases h2 : i < 24
      · have a : ¬ i - 8 < 8 := by omega
        have b : i - 8 - 8 < 8 := by omega
        simp [h0, a, b]; congr 1; omega
      · have a : ¬ i - 8 < 8 := by omega
        have b : ¬ i - 8 - 8 < 8 := by omega
        have c : i - 8 - 8 - 8 < 8 := by omega
        simp [h0, a, b, c]; congr 1; omega

/-- The decoder on the bytes of a word (R73, R74). -/
theorem decodeBytes_bytesOfWord (w : Word) (rest : List Byte) :
    decodeBytes (bytesOfWord w ++ rest) = some (decode w, rest) := by
  simp [bytesOfWord, decodeBytes, wordOfBytes_byteOfWord]

end Sys2Proof
end

