-- ==== Sys2Proof/Laws/Memory.lean ====
section
/-! SUPPORT. The laws of memory: what a read gives after a write, and that every operation keeps the canonical form. -/
namespace Sys2Proof.Machine

/-! ### One byte -/

theorem Memory.mem_erase {m : Memory} {a : Nat} {x : Host.Cell} (h : x ∈ Memory.erase m a) :
    x ∈ m ∧ x.1 ≠ a := by
  induction m with
  | nil => simp [Memory.erase] at h
  | cons y rest ih =>
    obtain ⟨k, b⟩ := y
    unfold Memory.erase at h
    split at h
    · exact ⟨List.mem_cons_of_mem _ (ih h).1, (ih h).2⟩
    · rcases List.mem_cons.mp h with rfl | h'
      · exact ⟨List.mem_cons_self, by assumption⟩
      · exact ⟨List.mem_cons_of_mem _ (ih h').1, (ih h').2⟩

theorem Memory.mem_insert {m : Memory} {a : Nat} {v : Byte} {x : Host.Cell} (h : x ∈ Memory.insert m a v) :
    x = (a, v) ∨ x ∈ m := by
  induction m with
  | nil => simpa [Memory.insert] using h
  | cons y rest ih =>
    obtain ⟨k, b⟩ := y
    unfold Memory.insert at h
    split at h
    · simpa using h
    · rcases List.mem_cons.mp h with rfl | h'
      · simp
      · rcases ih h' with e | e
        · exact .inl e
        · exact .inr (List.mem_cons_of_mem _ e)

theorem Memory.read_erase (m : Memory) (a b : Nat) :
    Memory.read (Memory.erase m a) b = if b = a then Config.unlistedByte else Memory.read m b := by
  induction m with
  | nil => simp [Memory.erase, Memory.read]
  | cons y rest ih =>
    obtain ⟨k, v⟩ := y
    unfold Memory.erase
    by_cases hk : k = a
    · subst hk
      rw [if_pos rfl, ih]
      by_cases hb : b = k
      · simp [hb]
      · simp [hb, Memory.read, Ne.symm hb]
    · rw [if_neg hk]
      by_cases hb : k = b
      · subst hb; simp [Memory.read, hk]
      · simp only [Memory.read, if_neg hb, ih]

theorem Memory.read_insert_ne (m : Memory) {a b : Nat} (v : Byte) (h : b ≠ a) :
    Memory.read (Memory.insert m a v) b = Memory.read m b := by
  induction m with
  | nil => simp [Memory.insert, Memory.read, Ne.symm h]
  | cons y rest ih =>
    obtain ⟨k, c⟩ := y
    unfold Memory.insert
    split
    · simp [Memory.read, Ne.symm h]
    · simp only [Memory.read, ih]

theorem Memory.read_insert_self (m : Memory) (a : Nat) (v : Byte) (h : ∀ x ∈ m, x.1 ≠ a) :
    Memory.read (Memory.insert m a v) a = v := by
  induction m with
  | nil => simp [Memory.insert, Memory.read]
  | cons y rest ih =>
    obtain ⟨k, c⟩ := y
    have hk : k ≠ a := h (k, c) List.mem_cons_self
    unfold Memory.insert
    split
    · simp [Memory.read]
    · simp only [Memory.read, if_neg hk]
      exact ih fun x hx => h x (List.mem_cons_of_mem _ hx)

/-- A read after a write of one byte. -/
theorem Memory.read_write (m : Memory) (a b : Nat) (v : Byte) :
    Memory.read (Memory.write m a v) b = if b = a then v else Memory.read m b := by
  unfold Memory.write
  by_cases hv : v = Config.unlistedByte
  · rw [if_pos hv, Memory.read_erase, hv]
  · rw [if_neg hv]
    by_cases hb : b = a
    · subst hb
      rw [if_pos rfl, Memory.read_insert_self _ _ _ fun x hx => (Memory.mem_erase hx).2]
    · rw [if_neg hb, Memory.read_insert_ne _ _ hb, Memory.read_erase, if_neg hb]

/-! ### The canonical form -/

theorem Memory.wf_erase {m : Memory} (h : Memory.wf m) (a : Nat) : Memory.wf (Memory.erase m a) := by
  refine ⟨?_, fun x hx => h.2 x (Memory.mem_erase hx).1⟩
  have hp := h.1
  clear h
  induction m with
  | nil => exact List.Pairwise.nil
  | cons y rest ih =>
    obtain ⟨hy, hr⟩ := List.pairwise_cons.mp hp
    unfold Memory.erase
    split
    · exact ih hr
    · exact List.pairwise_cons.mpr ⟨fun x hx => hy x (Memory.mem_erase hx).1, ih hr⟩

theorem Memory.pairwise_insert {m : Memory} {a : Nat} {v : Byte} (hp : m.Pairwise (fun x y => x.1 < y.1))
    (hn : ∀ x ∈ m, x.1 ≠ a) : (Memory.insert m a v).Pairwise (fun x y => x.1 < y.1) := by
  induction m with
  | nil => exact List.pairwise_singleton _ _
  | cons y rest ih =>
    obtain ⟨k, c⟩ := y
    obtain ⟨hy, hr⟩ := List.pairwise_cons.mp hp
    have hk : k ≠ a := hn (k, c) List.mem_cons_self
    unfold Memory.insert
    split
    · rename_i hlt
      refine List.pairwise_cons.mpr ⟨fun x hx => ?_, hp⟩
      rcases List.mem_cons.mp hx with rfl | hx'
      · exact hlt
      · exact Nat.lt_trans hlt (hy x hx')
    · rename_i hge
      refine List.pairwise_cons.mpr ⟨fun x hx => ?_, ih hr fun x hx => hn x (List.mem_cons_of_mem _ hx)⟩
      rcases Memory.mem_insert hx with rfl | hx'
      · exact Nat.lt_of_le_of_ne (Nat.le_of_not_lt hge) hk
      · exact hy x hx'

/-- A write of one byte inside the address space keeps the canonical form. -/
theorem Memory.wf_write {m : Memory} (h : Memory.wf m) {a : Nat} (ha : a < 2 ^ 32) (v : Byte) :
    Memory.wf (Memory.write m a v) := by
  unfold Memory.write
  split
  · exact Memory.wf_erase h a
  · rename_i hv
    have he := Memory.wf_erase h a
    refine ⟨Memory.pairwise_insert he.1 fun x hx => (Memory.mem_erase hx).2, fun x hx => ?_⟩
    rcases Memory.mem_insert hx with rfl | hx'
    · exact ⟨ha, hv⟩
    · exact he.2 x hx'

theorem laneAddress_lt (w : BitVec 30) {k : Nat} (hk : k < 4) : laneAddress w k < 2 ^ 32 := by
  have := w.isLt
  unfold laneAddress
  omega

theorem Memory.wf_writeLane {m : Memory} (h : Memory.wf m) (w : BitVec 30) (bsel : BitVec 4) (d : Word) {k : Nat}
    (hk : k < 4) : Memory.wf (Memory.writeLane m w bsel d k) := by
  unfold Memory.writeLane
  split
  · exact Memory.wf_write h (laneAddress_lt w hk) _
  · exact h

/-- A write cycle keeps the canonical form. -/
theorem Memory.wf_writeWord {m : Memory} (h : Memory.wf m) (w : BitVec 30) (bsel : BitVec 4) (d : Word) :
    Memory.wf (Memory.writeWord m w bsel d) :=
  Memory.wf_writeLane (Memory.wf_writeLane (Memory.wf_writeLane (Memory.wf_writeLane h w bsel d (by decide)) w bsel d
    (by decide)) w bsel d (by decide)) w bsel d (by decide)

/-- The memory after reset is in canonical form. -/
theorem State.reset_mem_wf : Memory.wf State.reset.mem := by decide

/-! ### A write cycle, byte by byte (R72) -/

theorem Memory.read_writeLane (m : Memory) (w : BitVec 30) (bsel : BitVec 4) (d : Word) (k a : Nat) :
    Memory.read (Memory.writeLane m w bsel d k) a =
      if bsel.getLsbD k ∧ a = laneAddress w k then byteOfWord d k else Memory.read m a := by
  unfold Memory.writeLane
  by_cases hb : bsel.getLsbD k
  · simp [hb, Memory.read_write]
  · simp [hb]

/-- A read after a write cycle: the selected lanes of the word hold their bytes of the data, every other byte is as
before (R72). -/
theorem Memory.read_writeWord (m : Memory) (w : BitVec 30) (bsel : BitVec 4) (d : Word) (a : Nat) :
    Memory.read (Memory.writeWord m w bsel d) a =
      if a / 4 = w.toNat ∧ bsel.getLsbD (a % 4) then byteOfWord d (a % 4) else Memory.read m a := by
  unfold Memory.writeWord
  simp only [Memory.read_writeLane, laneAddress]
  by_cases hw : a / 4 = w.toNat
  · have hlt : a % 4 < 4 := Nat.mod_lt _ (by decide)
    have ha : a = 4 * w.toNat + a % 4 := by omega
    obtain h | h | h | h : a % 4 = 0 ∨ a % 4 = 1 ∨ a % 4 = 2 ∨ a % 4 = 3 := by omega
    all_goals
      rw [h] at ha
      rw [h]
      subst ha
      simp [hw]
  · have hn : ∀ k, k < 4 → a ≠ 4 * w.toNat + k := by omega
    have h0 : a ≠ 4 * w.toNat := hn 0 (by decide)
    simp [hw, h0, hn 1 (by decide), hn 2 (by decide), hn 3 (by decide)]

/-- The word read after a write cycle to another word is as before (R72). -/
theorem Memory.readWord_writeWord_ne (m : Memory) {w u : BitVec 30} (bsel : BitVec 4) (d : Word) (h : u ≠ w) :
    Memory.readWord (Memory.writeWord m w bsel d) u = Memory.readWord m u := by
  have hn : u.toNat ≠ w.toNat := fun e => h (BitVec.eq_of_toNat_eq e)
  have hk : ∀ k, k < 4 → (4 * u.toNat + k) / 4 ≠ w.toNat := by omega
  simp [Memory.readWord, Memory.read_writeWord, laneAddress, hn, hk 1 (by decide), hk 2 (by decide),
    hk 3 (by decide)]

/-- The word read after a whole word was written there (R72). -/
theorem Memory.readWord_writeWord_self (m : Memory) (w : BitVec 30) (d : Word) :
    Memory.readWord (Memory.writeWord m w 0b1111#4 d) w = d := by
  have hd : ∀ k, k < 4 → (4 * w.toNat + k) / 4 = w.toNat ∧ (4 * w.toNat + k) % 4 = k := by omega
  simp only [Memory.readWord, Memory.read_writeWord, laneAddress, hd 0 (by decide), hd 1 (by decide), hd 2 (by decide),
    hd 3 (by decide)]
  simpa using wordOfBytes_byteOfWord d

end Sys2Proof.Machine
end

