-- ==== Sys2Proof/Laws/State.lean ====
section
/-! SUPPORT. What every named update of `State` does to every field, and the register file's laws. -/
namespace Sys2Proof.Machine

/-! ### `State.setCwp` -/

@[simp] theorem State.setCwp_glob (s : State) (w : BitVec 5) : (s.setCwp w).glob = s.glob := rfl
@[simp] theorem State.setCwp_win (s : State) (w : BitVec 5) : (s.setCwp w).win = s.win := rfl
@[simp] theorem State.setCwp_pc (s : State) (w : BitVec 5) : (s.setCwp w).pc = s.pc := rfl
@[simp] theorem State.setCwp_npc (s : State) (w : BitVec 5) : (s.setCwp w).npc = s.npc := rfl
@[simp] theorem State.setCwp_psr (s : State) (w : BitVec 5) : (s.setCwp w).psr = { s.psr with cwp := w } := rfl
@[simp] theorem State.setCwp_y (s : State) (w : BitVec 5) : (s.setCwp w).y = s.y := rfl
@[simp] theorem State.setCwp_wim (s : State) (w : BitVec 5) : (s.setCwp w).wim = s.wim := rfl
@[simp] theorem State.setCwp_tbr (s : State) (w : BitVec 5) : (s.setCwp w).tbr = s.tbr := rfl
@[simp] theorem State.setCwp_base (s : State) (w : BitVec 5) : (s.setCwp w).base = s.base := rfl
@[simp] theorem State.setCwp_limite (s : State) (w : BitVec 5) : (s.setCwp w).limite = s.limite := rfl
@[simp] theorem State.setCwp_errorMode (s : State) (w : BitVec 5) : (s.setCwp w).errorMode = s.errorMode := rfl
@[simp] theorem State.setCwp_irq (s : State) (w : BitVec 5) : (s.setCwp w).irq = s.irq := rfl
@[simp] theorem State.setCwp_mem (s : State) (w : BitVec 5) : (s.setCwp w).mem = s.mem := rfl
@[simp] theorem State.setCwp_platform (s : State) (w : BitVec 5) : (s.setCwp w).platform = s.platform := rfl
@[simp] theorem State.setCwp_inputs (s : State) (w : BitVec 5) : (s.setCwp w).inputs = s.inputs := rfl
@[simp] theorem State.setCwp_deviceLog (s : State) (w : BitVec 5) : (s.setCwp w).deviceLog = s.deviceLog := rfl

/-! ### `State.setCodes` -/

@[simp] theorem State.setCodes_glob (s : State) (f : CondCodes) : (s.setCodes f).glob = s.glob := rfl
@[simp] theorem State.setCodes_win (s : State) (f : CondCodes) : (s.setCodes f).win = s.win := rfl
@[simp] theorem State.setCodes_pc (s : State) (f : CondCodes) : (s.setCodes f).pc = s.pc := rfl
@[simp] theorem State.setCodes_npc (s : State) (f : CondCodes) : (s.setCodes f).npc = s.npc := rfl
@[simp] theorem State.setCodes_psr (s : State) (f : CondCodes) : (s.setCodes f).psr = s.psr.setCodes f := rfl
@[simp] theorem State.setCodes_y (s : State) (f : CondCodes) : (s.setCodes f).y = s.y := rfl
@[simp] theorem State.setCodes_wim (s : State) (f : CondCodes) : (s.setCodes f).wim = s.wim := rfl
@[simp] theorem State.setCodes_tbr (s : State) (f : CondCodes) : (s.setCodes f).tbr = s.tbr := rfl
@[simp] theorem State.setCodes_base (s : State) (f : CondCodes) : (s.setCodes f).base = s.base := rfl
@[simp] theorem State.setCodes_limite (s : State) (f : CondCodes) : (s.setCodes f).limite = s.limite := rfl
@[simp] theorem State.setCodes_errorMode (s : State) (f : CondCodes) : (s.setCodes f).errorMode = s.errorMode := rfl
@[simp] theorem State.setCodes_irq (s : State) (f : CondCodes) : (s.setCodes f).irq = s.irq := rfl
@[simp] theorem State.setCodes_mem (s : State) (f : CondCodes) : (s.setCodes f).mem = s.mem := rfl
@[simp] theorem State.setCodes_platform (s : State) (f : CondCodes) : (s.setCodes f).platform = s.platform := rfl
@[simp] theorem State.setCodes_inputs (s : State) (f : CondCodes) : (s.setCodes f).inputs = s.inputs := rfl
@[simp] theorem State.setCodes_deviceLog (s : State) (f : CondCodes) : (s.setCodes f).deviceLog = s.deviceLog := rfl

/-! ### `State.advance` -/

@[simp] theorem State.advance_glob (s : State) : s.advance.glob = s.glob := rfl
@[simp] theorem State.advance_win (s : State) : s.advance.win = s.win := rfl
@[simp] theorem State.advance_pc (s : State) : s.advance.pc = s.npc := rfl
@[simp] theorem State.advance_npc (s : State) : s.advance.npc = s.npc + 4 := rfl
@[simp] theorem State.advance_psr (s : State) : s.advance.psr = s.psr := rfl
@[simp] theorem State.advance_y (s : State) : s.advance.y = s.y := rfl
@[simp] theorem State.advance_wim (s : State) : s.advance.wim = s.wim := rfl
@[simp] theorem State.advance_tbr (s : State) : s.advance.tbr = s.tbr := rfl
@[simp] theorem State.advance_base (s : State) : s.advance.base = s.base := rfl
@[simp] theorem State.advance_limite (s : State) : s.advance.limite = s.limite := rfl
@[simp] theorem State.advance_errorMode (s : State) : s.advance.errorMode = s.errorMode := rfl
@[simp] theorem State.advance_irq (s : State) : s.advance.irq = s.irq := rfl
@[simp] theorem State.advance_mem (s : State) : s.advance.mem = s.mem := rfl
@[simp] theorem State.advance_platform (s : State) : s.advance.platform = s.platform := rfl
@[simp] theorem State.advance_inputs (s : State) : s.advance.inputs = s.inputs := rfl
@[simp] theorem State.advance_deviceLog (s : State) : s.advance.deviceLog = s.deviceLog := rfl

/-! ### `State.jumpTo` -/

@[simp] theorem State.jumpTo_glob (s : State) (a : Word) : (s.jumpTo a).glob = s.glob := rfl
@[simp] theorem State.jumpTo_win (s : State) (a : Word) : (s.jumpTo a).win = s.win := rfl
@[simp] theorem State.jumpTo_pc (s : State) (a : Word) : (s.jumpTo a).pc = s.npc := rfl
@[simp] theorem State.jumpTo_npc (s : State) (a : Word) : (s.jumpTo a).npc = a := rfl
@[simp] theorem State.jumpTo_psr (s : State) (a : Word) : (s.jumpTo a).psr = s.psr := rfl
@[simp] theorem State.jumpTo_y (s : State) (a : Word) : (s.jumpTo a).y = s.y := rfl
@[simp] theorem State.jumpTo_wim (s : State) (a : Word) : (s.jumpTo a).wim = s.wim := rfl
@[simp] theorem State.jumpTo_tbr (s : State) (a : Word) : (s.jumpTo a).tbr = s.tbr := rfl
@[simp] theorem State.jumpTo_base (s : State) (a : Word) : (s.jumpTo a).base = s.base := rfl
@[simp] theorem State.jumpTo_limite (s : State) (a : Word) : (s.jumpTo a).limite = s.limite := rfl
@[simp] theorem State.jumpTo_errorMode (s : State) (a : Word) : (s.jumpTo a).errorMode = s.errorMode := rfl
@[simp] theorem State.jumpTo_irq (s : State) (a : Word) : (s.jumpTo a).irq = s.irq := rfl
@[simp] theorem State.jumpTo_mem (s : State) (a : Word) : (s.jumpTo a).mem = s.mem := rfl
@[simp] theorem State.jumpTo_platform (s : State) (a : Word) : (s.jumpTo a).platform = s.platform := rfl
@[simp] theorem State.jumpTo_inputs (s : State) (a : Word) : (s.jumpTo a).inputs = s.inputs := rfl
@[simp] theorem State.jumpTo_deviceLog (s : State) (a : Word) : (s.jumpTo a).deviceLog = s.deviceLog := rfl

/-! ### `State.annul` -/

@[simp] theorem State.annul_glob (s : State) : s.annul.glob = s.glob := rfl
@[simp] theorem State.annul_win (s : State) : s.annul.win = s.win := rfl
@[simp] theorem State.annul_pc (s : State) : s.annul.pc = s.npc + 4 := rfl
@[simp] theorem State.annul_npc (s : State) : s.annul.npc = s.npc + 8 := rfl
@[simp] theorem State.annul_psr (s : State) : s.annul.psr = s.psr := rfl
@[simp] theorem State.annul_y (s : State) : s.annul.y = s.y := rfl
@[simp] theorem State.annul_wim (s : State) : s.annul.wim = s.wim := rfl
@[simp] theorem State.annul_tbr (s : State) : s.annul.tbr = s.tbr := rfl
@[simp] theorem State.annul_base (s : State) : s.annul.base = s.base := rfl
@[simp] theorem State.annul_limite (s : State) : s.annul.limite = s.limite := rfl
@[simp] theorem State.annul_errorMode (s : State) : s.annul.errorMode = s.errorMode := rfl
@[simp] theorem State.annul_irq (s : State) : s.annul.irq = s.irq := rfl
@[simp] theorem State.annul_mem (s : State) : s.annul.mem = s.mem := rfl
@[simp] theorem State.annul_platform (s : State) : s.annul.platform = s.platform := rfl
@[simp] theorem State.annul_inputs (s : State) : s.annul.inputs = s.inputs := rfl
@[simp] theorem State.annul_deviceLog (s : State) : s.annul.deviceLog = s.deviceLog := rfl

/-! ### `State.returnFromTrap` -/

@[simp] theorem State.returnFromTrap_glob (s : State) (a : Word) : (s.returnFromTrap a).glob = s.glob := rfl
@[simp] theorem State.returnFromTrap_win (s : State) (a : Word) : (s.returnFromTrap a).win = s.win := rfl
@[simp] theorem State.returnFromTrap_pc (s : State) (a : Word) : (s.returnFromTrap a).pc = s.npc := rfl
@[simp] theorem State.returnFromTrap_npc (s : State) (a : Word) : (s.returnFromTrap a).npc = a := rfl
@[simp] theorem State.returnFromTrap_psr (s : State) (a : Word) : (s.returnFromTrap a).psr = { s.psr with cwp := s.psr.cwp + 1, et := true, s := s.psr.ps } := rfl
@[simp] theorem State.returnFromTrap_y (s : State) (a : Word) : (s.returnFromTrap a).y = s.y := rfl
@[simp] theorem State.returnFromTrap_wim (s : State) (a : Word) : (s.returnFromTrap a).wim = s.wim := rfl
@[simp] theorem State.returnFromTrap_tbr (s : State) (a : Word) : (s.returnFromTrap a).tbr = s.tbr := rfl
@[simp] theorem State.returnFromTrap_base (s : State) (a : Word) : (s.returnFromTrap a).base = s.base := rfl
@[simp] theorem State.returnFromTrap_limite (s : State) (a : Word) : (s.returnFromTrap a).limite = s.limite := rfl
@[simp] theorem State.returnFromTrap_errorMode (s : State) (a : Word) : (s.returnFromTrap a).errorMode = s.errorMode := rfl
@[simp] theorem State.returnFromTrap_irq (s : State) (a : Word) : (s.returnFromTrap a).irq = s.irq := rfl
@[simp] theorem State.returnFromTrap_mem (s : State) (a : Word) : (s.returnFromTrap a).mem = s.mem := rfl
@[simp] theorem State.returnFromTrap_platform (s : State) (a : Word) : (s.returnFromTrap a).platform = s.platform := rfl
@[simp] theorem State.returnFromTrap_inputs (s : State) (a : Word) : (s.returnFromTrap a).inputs = s.inputs := rfl
@[simp] theorem State.returnFromTrap_deviceLog (s : State) (a : Word) : (s.returnFromTrap a).deviceLog = s.deviceLog := rfl

/-! ### `State.withWordAtPc` -/

@[simp] theorem State.withWordAtPc_glob (s : State) (w : Word) : (s.withWordAtPc w).glob = s.glob := rfl
@[simp] theorem State.withWordAtPc_win (s : State) (w : Word) : (s.withWordAtPc w).win = s.win := rfl
@[simp] theorem State.withWordAtPc_pc (s : State) (w : Word) : (s.withWordAtPc w).pc = s.pc := rfl
@[simp] theorem State.withWordAtPc_npc (s : State) (w : Word) : (s.withWordAtPc w).npc = s.npc := rfl
@[simp] theorem State.withWordAtPc_psr (s : State) (w : Word) : (s.withWordAtPc w).psr = s.psr := rfl
@[simp] theorem State.withWordAtPc_y (s : State) (w : Word) : (s.withWordAtPc w).y = s.y := rfl
@[simp] theorem State.withWordAtPc_wim (s : State) (w : Word) : (s.withWordAtPc w).wim = s.wim := rfl
@[simp] theorem State.withWordAtPc_tbr (s : State) (w : Word) : (s.withWordAtPc w).tbr = s.tbr := rfl
@[simp] theorem State.withWordAtPc_base (s : State) (w : Word) : (s.withWordAtPc w).base = s.base := rfl
@[simp] theorem State.withWordAtPc_limite (s : State) (w : Word) : (s.withWordAtPc w).limite = s.limite := rfl
@[simp] theorem State.withWordAtPc_errorMode (s : State) (w : Word) : (s.withWordAtPc w).errorMode = s.errorMode := rfl
@[simp] theorem State.withWordAtPc_irq (s : State) (w : Word) : (s.withWordAtPc w).irq = s.irq := rfl
@[simp] theorem State.withWordAtPc_mem (s : State) (w : Word) : (s.withWordAtPc w).mem = s.mem.writeWord (wordIndex (s.absolute s.pc)) 0b1111 w := rfl
@[simp] theorem State.withWordAtPc_platform (s : State) (w : Word) : (s.withWordAtPc w).platform = s.platform := rfl
@[simp] theorem State.withWordAtPc_inputs (s : State) (w : Word) : (s.withWordAtPc w).inputs = s.inputs := rfl
@[simp] theorem State.withWordAtPc_deviceLog (s : State) (w : Word) : (s.withWordAtPc w).deviceLog = s.deviceLog := rfl

/-! ### `State.setReg`: only `G` and `R` -/

@[simp] theorem State.setReg_pc (s : State) (i : RegNum) (v : Word) : (s.setReg i v).pc = s.pc := by
  unfold State.setReg; split <;> [rfl; (split <;> rfl)]
@[simp] theorem State.setReg_npc (s : State) (i : RegNum) (v : Word) : (s.setReg i v).npc = s.npc := by
  unfold State.setReg; split <;> [rfl; (split <;> rfl)]
@[simp] theorem State.setReg_psr (s : State) (i : RegNum) (v : Word) : (s.setReg i v).psr = s.psr := by
  unfold State.setReg; split <;> [rfl; (split <;> rfl)]
@[simp] theorem State.setReg_y (s : State) (i : RegNum) (v : Word) : (s.setReg i v).y = s.y := by
  unfold State.setReg; split <;> [rfl; (split <;> rfl)]
@[simp] theorem State.setReg_wim (s : State) (i : RegNum) (v : Word) : (s.setReg i v).wim = s.wim := by
  unfold State.setReg; split <;> [rfl; (split <;> rfl)]
@[simp] theorem State.setReg_tbr (s : State) (i : RegNum) (v : Word) : (s.setReg i v).tbr = s.tbr := by
  unfold State.setReg; split <;> [rfl; (split <;> rfl)]
@[simp] theorem State.setReg_base (s : State) (i : RegNum) (v : Word) : (s.setReg i v).base = s.base := by
  unfold State.setReg; split <;> [rfl; (split <;> rfl)]
@[simp] theorem State.setReg_limite (s : State) (i : RegNum) (v : Word) : (s.setReg i v).limite = s.limite := by
  unfold State.setReg; split <;> [rfl; (split <;> rfl)]
@[simp] theorem State.setReg_errorMode (s : State) (i : RegNum) (v : Word) : (s.setReg i v).errorMode = s.errorMode := by
  unfold State.setReg; split <;> [rfl; (split <;> rfl)]
@[simp] theorem State.setReg_irq (s : State) (i : RegNum) (v : Word) : (s.setReg i v).irq = s.irq := by
  unfold State.setReg; split <;> [rfl; (split <;> rfl)]
@[simp] theorem State.setReg_mem (s : State) (i : RegNum) (v : Word) : (s.setReg i v).mem = s.mem := by
  unfold State.setReg; split <;> [rfl; (split <;> rfl)]
@[simp] theorem State.setReg_platform (s : State) (i : RegNum) (v : Word) : (s.setReg i v).platform = s.platform := by
  unfold State.setReg; split <;> [rfl; (split <;> rfl)]
@[simp] theorem State.setReg_inputs (s : State) (i : RegNum) (v : Word) : (s.setReg i v).inputs = s.inputs := by
  unfold State.setReg; split <;> [rfl; (split <;> rfl)]
@[simp] theorem State.setReg_deviceLog (s : State) (i : RegNum) (v : Word) : (s.setReg i v).deviceLog = s.deviceLog := by
  unfold State.setReg; split <;> [rfl; (split <;> rfl)]

/-! ### `State.takeTrap`: all but the two saved registers -/

@[simp] theorem State.takeTrap_pc (s : State) (t : TrapType) : (s.takeTrap t).pc = ({ s.tbr with tt := t.code } : Tbr).toWord := by
  simp [State.takeTrap]
@[simp] theorem State.takeTrap_npc (s : State) (t : TrapType) : (s.takeTrap t).npc = ({ s.tbr with tt := t.code } : Tbr).toWord + 4 := by
  simp [State.takeTrap]
@[simp] theorem State.takeTrap_psr (s : State) (t : TrapType) : (s.takeTrap t).psr = { s.psr with cwp := s.psr.cwp - 1, et := false, ps := s.psr.s, s := true } := by
  simp [State.takeTrap]
@[simp] theorem State.takeTrap_y (s : State) (t : TrapType) : (s.takeTrap t).y = s.y := by
  simp [State.takeTrap]
@[simp] theorem State.takeTrap_wim (s : State) (t : TrapType) : (s.takeTrap t).wim = s.wim := by
  simp [State.takeTrap]
@[simp] theorem State.takeTrap_tbr (s : State) (t : TrapType) : (s.takeTrap t).tbr = { s.tbr with tt := t.code } := by
  simp [State.takeTrap]
@[simp] theorem State.takeTrap_base (s : State) (t : TrapType) : (s.takeTrap t).base = s.base := by
  simp [State.takeTrap]
@[simp] theorem State.takeTrap_limite (s : State) (t : TrapType) : (s.takeTrap t).limite = s.limite := by
  simp [State.takeTrap]
@[simp] theorem State.takeTrap_errorMode (s : State) (t : TrapType) : (s.takeTrap t).errorMode = s.errorMode := by
  simp [State.takeTrap]
@[simp] theorem State.takeTrap_irq (s : State) (t : TrapType) : (s.takeTrap t).irq = s.irq := by
  simp [State.takeTrap]
@[simp] theorem State.takeTrap_mem (s : State) (t : TrapType) : (s.takeTrap t).mem = s.mem := by
  simp [State.takeTrap]
@[simp] theorem State.takeTrap_platform (s : State) (t : TrapType) : (s.takeTrap t).platform = s.platform := by
  simp [State.takeTrap]
@[simp] theorem State.takeTrap_inputs (s : State) (t : TrapType) : (s.takeTrap t).inputs = s.inputs := by
  simp [State.takeTrap]
@[simp] theorem State.takeTrap_deviceLog (s : State) (t : TrapType) : (s.takeTrap t).deviceLog = s.deviceLog := by
  simp [State.takeTrap]

/-! ### Reset -/

@[simp] theorem Platform.resetState_glob (p : Platform) : p.resetState.glob = RegArray.zero 8 := rfl
@[simp] theorem Platform.resetState_win (p : Platform) : p.resetState.win = RegArray.zero 512 := rfl
@[simp] theorem Platform.resetState_pc (p : Platform) : p.resetState.pc = p.resetPc := rfl
@[simp] theorem Platform.resetState_npc (p : Platform) : p.resetState.npc = p.resetPc + 4 := rfl
@[simp] theorem Platform.resetState_psr (p : Platform) : p.resetState.psr = Psr.ofWord p.resetPsr := rfl
@[simp] theorem Platform.resetState_y (p : Platform) : p.resetState.y = 0 := rfl
@[simp] theorem Platform.resetState_wim (p : Platform) : p.resetState.wim = 0 := rfl
@[simp] theorem Platform.resetState_tbr (p : Platform) : p.resetState.tbr = { tba := 0, tt := 0 } := rfl
@[simp] theorem Platform.resetState_base (p : Platform) : p.resetState.base = 0 := rfl
@[simp] theorem Platform.resetState_limite (p : Platform) : p.resetState.limite = 0 := rfl
@[simp] theorem Platform.resetState_errorMode (p : Platform) : p.resetState.errorMode = false := rfl
@[simp] theorem Platform.resetState_irq (p : Platform) : p.resetState.irq = 0 := rfl
@[simp] theorem Platform.resetState_mem (p : Platform) : p.resetState.mem = p.image := rfl
@[simp] theorem Platform.resetState_platform (p : Platform) : p.resetState.platform = p := rfl
@[simp] theorem Platform.resetState_inputs (p : Platform) : p.resetState.inputs = [] := rfl
@[simp] theorem Platform.resetState_deviceLog (p : Platform) : p.resetState.deviceLog = [] := rfl

@[simp] theorem State.resetAgain_glob (s : State) : s.resetAgain.glob = RegArray.zero 8 := rfl
@[simp] theorem State.resetAgain_win (s : State) : s.resetAgain.win = RegArray.zero 512 := rfl
@[simp] theorem State.resetAgain_pc (s : State) : s.resetAgain.pc = s.platform.resetPc := rfl
@[simp] theorem State.resetAgain_npc (s : State) : s.resetAgain.npc = s.platform.resetPc + 4 := rfl
@[simp] theorem State.resetAgain_psr (s : State) : s.resetAgain.psr = Psr.ofWord s.platform.resetPsr := rfl
@[simp] theorem State.resetAgain_y (s : State) : s.resetAgain.y = 0 := rfl
@[simp] theorem State.resetAgain_wim (s : State) : s.resetAgain.wim = 0 := rfl
@[simp] theorem State.resetAgain_tbr (s : State) : s.resetAgain.tbr = { tba := 0, tt := 0 } := rfl
@[simp] theorem State.resetAgain_base (s : State) : s.resetAgain.base = 0 := rfl
@[simp] theorem State.resetAgain_limite (s : State) : s.resetAgain.limite = 0 := rfl
@[simp] theorem State.resetAgain_errorMode (s : State) : s.resetAgain.errorMode = false := rfl
@[simp] theorem State.resetAgain_irq (s : State) : s.resetAgain.irq = s.irq := rfl
@[simp] theorem State.resetAgain_mem (s : State) : s.resetAgain.mem = s.platform.image := rfl
@[simp] theorem State.resetAgain_platform (s : State) : s.resetAgain.platform = s.platform := rfl
@[simp] theorem State.resetAgain_inputs (s : State) : s.resetAgain.inputs = s.inputs := rfl
@[simp] theorem State.resetAgain_deviceLog (s : State) : s.resetAgain.deviceLog = s.deviceLog := rfl

/-! ### The register file -/

/-- An array read after a write. -/
theorem RegArray.get_set {n : Nat} (r : RegArray n) (i j : Fin n) (v : Word) :
    (r.set i v).get j = if j = i then v else r.get j := by
  simp only [RegArray.get, RegArray.set, List.getElem_set, Fin.ext_iff]
  by_cases h : j.val = i.val
  · simp [h]
  · simp [h, Ne.symm h]

/-- Every element of a fresh array is 0 (R51). -/
@[simp] theorem RegArray.get_zero {n : Nat} (i : Fin n) : (RegArray.zero n).get i = 0 := by
  simp [RegArray.get, RegArray.zero]

/-- `x[0]` is 0 (R25). -/
@[simp] theorem State.reg_zero (s : State) : s.reg 0#5 = 0#32 := by simp [State.reg]

/-- A write to register 0 does nothing (R24). -/
@[simp] theorem State.setReg_zero (s : State) (v : Word) : s.setReg 0#5 v = s := by simp [State.setReg]

/-- A write to a global register (R24). -/
theorem State.setReg_global (s : State) {i : RegNum} (h0 : i ≠ 0) (h8 : i.toNat < 8) (v : Word) :
    s.setReg i v = { s with glob := s.glob.set (globalIndex i) v } := by
  rw [State.setReg, if_neg h0, if_pos h8]

/-- A write to a windowed register (R24). -/
theorem State.setReg_windowed (s : State) {i : RegNum} (h8 : 8 ≤ i.toNat) (v : Word) :
    s.setReg i v = { s with win := s.win.set (windowIndex s.psr.cwp i) v } := by
  have h0 : i ≠ 0 := by rintro rfl; simp at h8
  rw [State.setReg, if_neg h0, if_neg (by omega)]

/-- A read of a global register (R25). -/
theorem State.reg_global (s : State) {i : RegNum} (h0 : i ≠ 0) (h8 : i.toNat < 8) :
    s.reg i = s.glob.get (globalIndex i) := by
  rw [State.reg, if_neg h0, if_pos h8]

/-- A read of a windowed register (R25). -/
theorem State.reg_windowed (s : State) {i : RegNum} (h8 : 8 ≤ i.toNat) :
    s.reg i = s.win.get (windowIndex s.psr.cwp i) := by
  have h0 : i ≠ 0 := by rintro rfl; simp at h8
  rw [State.reg, if_neg h0, if_neg (by omega)]

/-- A visible register depends on the two arrays and the window pointer alone. -/
theorem State.reg_congr {s t : State} (hg : t.glob = s.glob) (hw : t.win = s.win) (hc : t.psr.cwp = s.psr.cwp)
    (i : RegNum) : t.reg i = s.reg i := by
  simp [State.reg, hg, hw, hc]

/-- What a register write leaves in `G` (R24). -/
theorem State.setReg_glob_get (s : State) (rd : RegNum) (v : Word) (i : Fin 8) :
    (s.setReg rd v).glob.get i = if rd ≠ 0 ∧ i.val = rd.toNat then v else s.glob.get i := by
  by_cases h0 : rd = 0
  · subst h0; simp
  by_cases h8 : rd.toNat < 8
  · rw [State.setReg_global s h0 h8, RegArray.get_set]
    simp only [Fin.ext_iff, globalIndex, Nat.mod_eq_of_lt h8, ne_eq, h0, not_false_eq_true, true_and]
  · have hi : ¬ (rd ≠ 0 ∧ i.val = rd.toNat) := by have := i.isLt; omega
    rw [State.setReg_windowed s (by omega), if_neg hi]

/-- What a register write leaves in `R` (R24). -/
theorem State.setReg_win_get (s : State) (rd : RegNum) (v : Word) (j : Fin 512) :
    (s.setReg rd v).win.get j =
      if 8 ≤ rd.toNat ∧ j.val = (s.psr.cwp.toNat * 16 + rd.toNat - 8) % 512 then v else s.win.get j := by
  by_cases h8 : 8 ≤ rd.toNat
  · rw [State.setReg_windowed s h8, RegArray.get_set]
    simp only [Fin.ext_iff, windowIndex, h8, true_and]
  · rw [if_neg (by omega)]
    by_cases h0 : rd = 0
    · subst h0; simp
    · rw [State.setReg_global s h0 (by omega)]

/-- The 24 windowed registers of one window are 24 different elements (R23). -/
theorem windowIndex_inj {w : BitVec 5} {i j : RegNum} (hi : 8 ≤ i.toNat) (hj : 8 ≤ j.toNat)
    (h : windowIndex w i = windowIndex w j) : i = j := by
  have h' : (w.toNat * 16 + i.toNat - 8) % 512 = (w.toNat * 16 + j.toNat - 8) % 512 := congrArg Fin.val h
  have := i.isLt; have := j.isLt; have := w.isLt
  apply BitVec.eq_of_toNat_eq
  omega

/-- The globals are different elements (R23). -/
theorem globalIndex_inj {i j : RegNum} (hi : i.toNat < 8) (hj : j.toNat < 8) (h : globalIndex i = globalIndex j) :
    i = j := by
  have h' : i.toNat % 8 = j.toNat % 8 := congrArg Fin.val h
  apply BitVec.eq_of_toNat_eq
  omega

/-- The elements trap entry writes: `%l1` and `%l2` of the window below (R420). -/
theorem State.takeTrap_glob (s : State) (t : TrapType) : (s.takeTrap t).glob = s.glob := by
  simp [State.takeTrap, State.setReg]

/-- The windowed registers after trap entry (R420). -/
theorem State.takeTrap_win_get (s : State) (t : TrapType) (j : Fin 512) :
    (s.takeTrap t).win.get j =
      if j = windowIndex (s.psr.cwp - 1) 18 then s.npc
      else if j = windowIndex (s.psr.cwp - 1) 17 then s.pc else s.win.get j := by
  simp [State.takeTrap, State.setReg, RegArray.get_set]

end Sys2Proof.Machine
end

