-- ==== Sys2Proof/Laws/Ops.lean ====
section
/-! SUPPORT. One lemma per shared operation: all it can answer. -/
namespace Sys2Proof.Machine

/-! ### Traps and privilege -/

/-- `raise` always answers a next state (R420, R424). -/
theorem raise_cases (t : TrapType) (s : State) :
    (s.psr.et = true ∧ raise t s = .next (s.takeTrap t)) ∨
      (s.psr.et = false ∧ raise t s = .next { s with errorMode := true }) := by
  unfold raise
  cases h : s.psr.et <;> simp

theorem raise_enabled {s : State} (h : s.psr.et = true) (t : TrapType) : raise t s = .next (s.takeTrap t) := by
  simp [raise, h]

theorem raise_disabled {s : State} (h : s.psr.et = false) (t : TrapType) :
    raise t s = .next { s with errorMode := true } := by
  simp [raise, h]

theorem privileged_supervisor {s : State} (h : s.psr.s = true) (k : Result) : privileged s k = k := by
  simp [privileged, h]

theorem privileged_user {s : State} (h : s.psr.s = false) (k : Result) :
    privileged s k = raise .privilegedInstruction s := by
  simp [privileged, h]

/-! ### Bus cycles -/

/-- A read cycle that ends with DTACK (R72, R93, R100). -/
theorem busRead_dtack {s s' : State} {w : BitVec 30} {v : Word} (h : busRead s w = .dtack v s') :
    (s.platform.answer w = .memory ∧ v = s.mem.readWord w ∧ s' = s) ∨
      (s.platform.answer w = .device ∧ v = Config.deviceWord s.deviceLog w ∧
        s' = { s with deviceLog := .read w :: s.deviceLog }) := by
  unfold busRead at h
  split at h
  · obtain ⟨rfl, rfl⟩ := by simpa using h
    exact .inl ⟨by assumption, rfl, rfl⟩
  · obtain ⟨rfl, rfl⟩ := by simpa using h
    exact .inr ⟨by assumption, rfl, rfl⟩
  · cases h
  · cases h

/-- A write cycle that ends with DTACK (R72, R93, R100). -/
theorem busWrite_dtack {s s' : State} {w : BitVec 30} {b : BitVec 4} {d : Word} {u : Unit}
    (h : busWrite s w b d = .dtack u s') :
    (s.platform.answer w = .memory ∧ s' = { s with mem := s.mem.writeWord w b d }) ∨
      (s.platform.answer w = .device ∧ s' = { s with deviceLog := .write w b d :: s.deviceLog }) := by
  unfold busWrite at h
  split at h
  · cases h
    exact .inl ⟨by assumption, rfl⟩
  · cases h
    exact .inr ⟨by assumption, rfl⟩
  · cases h
  · cases h

theorem BusReply.asAccess_done {α : Type} {b : BusReply α} {t : TrapType} {v : α} {s : State}
    (h : b.asAccess t = .done v s) : b = .dtack v s := by
  cases b <;> simp_all [BusReply.asAccess]

/-! ### Accesses -/

/-- What a step can be once an access has ended (R152(b), R423). -/
theorem Access.andThen_next {α : Type} {a : Access α} {s t : State} {k : α → State → Result}
    (h : a.andThen s k = .next t) :
    (∃ v s', a = .done v s' ∧ k v s' = .next t) ∨ (∃ tr, a = .trap tr ∧ raise tr s = .next t) := by
  cases a with
  | done v s' => exact .inl ⟨v, s', rfl, h⟩
  | trap tr => exact .inr ⟨tr, rfl, h⟩
  | fault f => simp [Access.andThen] at h
  | refused r => simp [Access.andThen] at h

theorem Access.bind_done {α β : Type} {a : Access α} {k : α → State → Access β} {v : β} {s : State}
    (h : a.bind k = .done v s) : ∃ x s0, a = .done x s0 ∧ k x s0 = .done v s := by
  cases a <;> simp_all [Access.bind]

/-- The checks of a data access that let it through change nothing (R88, R89). -/
theorem dataCheck_done {s s' : State} {p : Word} {n : Size} {u : Unit} (h : dataCheck s p n = .done u s') :
    s' = s ∧ p.toNat % n.bytes = 0 ∧ s.permitted p n.bytes = true ∧ s.baseUsable = true := by
  unfold dataCheck at h
  split at h
  · simp at h
  · split at h
    · simp at h
    · split at h
      · simp at h
      · simp_all

theorem dataCheck_ok {s : State} {p : Word} {n : Size} (ha : p.toNat % n.bytes = 0)
    (hp : s.permitted p n.bytes = true) (hb : s.baseUsable = true) : dataCheck s p n = .done () s := by
  simp [dataCheck, ha, hp, hb]

theorem dataCheck_misaligned {s : State} {p : Word} {n : Size} (ha : p.toNat % n.bytes ≠ 0) :
    dataCheck s p n = .trap .addressNotAligned := by
  simp [dataCheck, ha]

theorem dataCheck_forbidden {s : State} {p : Word} {n : Size} (ha : p.toNat % n.bytes = 0)
    (hp : s.permitted p n.bytes = false) : dataCheck s p n = .trap .dataAccessException := by
  simp [dataCheck, ha, hp]

theorem dataCheck_badBase {s : State} {p : Word} {n : Size} (ha : p.toNat % n.bytes = 0)
    (hp : s.permitted p n.bytes = true) (hb : s.baseUsable = false) :
    dataCheck s p n = .refused .misalignedBase := by
  simp [dataCheck, ha, hp, hb]

theorem fetchCheck_done {s s' : State} {u : Unit} (h : fetchCheck s = .done u s') :
    s' = s ∧ s.permitted s.pc 4 = true ∧ s.baseUsable = true := by
  unfold fetchCheck at h
  split at h
  · simp at h
  · split at h
    · simp at h
    · simp_all

theorem fetchCheck_ok {s : State} (hp : s.permitted s.pc 4 = true) (hb : s.baseUsable = true) :
    fetchCheck s = .done () s := by
  simp [fetchCheck, hp, hb]

/-- A load that completes (R88). -/
theorem memRead_done {s s' : State} {p v : Word} {n : Size} (h : memRead s p n = .done v s') :
    p.toNat % n.bytes = 0 ∧ s.permitted p n.bytes = true ∧ s.baseUsable = true ∧
      ∃ w, busRead s (wordIndex (s.absolute p)) = .dtack w s' ∧ v = alignLoad n (lane (s.absolute p)) w := by
  obtain ⟨x, s0, hc, hk⟩ := Access.bind_done h
  obtain ⟨rfl, ha, hp, hb⟩ := dataCheck_done hc
  obtain ⟨w, s1, hr, he⟩ := Access.bind_done hk
  cases he
  exact ⟨ha, hp, hb, w, BusReply.asAccess_done hr, rfl⟩

/-- A store that completes (R89). -/
theorem memWrite_done {s s' : State} {p v : Word} {n : Size} {u : Unit} (h : memWrite s p n v = .done u s') :
    p.toNat % n.bytes = 0 ∧ s.permitted p n.bytes = true ∧ s.baseUsable = true ∧
      busWrite s (wordIndex (s.absolute p)) (storeLanes n (lane (s.absolute p)))
        (alignStore n (lane (s.absolute p)) v) = .dtack u s' := by
  obtain ⟨x, s0, hc, hk⟩ := Access.bind_done h
  obtain ⟨rfl, ha, hp, hb⟩ := dataCheck_done hc
  exact ⟨ha, hp, hb, BusReply.asAccess_done hk⟩

/-- A fetch that completes (R90). -/
theorem fetch_done {s s' : State} {w : Word} (h : fetch s = .done w s') :
    s.permitted s.pc 4 = true ∧ s.baseUsable = true ∧ busRead s (wordIndex (s.absolute s.pc)) = .dtack w s' := by
  obtain ⟨x, s0, hc, hk⟩ := Access.bind_done h
  obtain ⟨rfl, hp, hb⟩ := fetchCheck_done hc
  exact ⟨hp, hb, BusReply.asAccess_done hk⟩

/-- A load that passes its checks is its bus cycle (R88). -/
theorem memRead_ok {s : State} {p : Word} {n : Size} (ha : p.toNat % n.bytes = 0)
    (hp : s.permitted p n.bytes = true) (hb : s.baseUsable = true) :
    memRead s p n = ((busRead s (wordIndex (s.absolute p))).asAccess .dataAccessError).bind fun w s' =>
      .done (alignLoad n (lane (s.absolute p)) w) s' := by
  simp [memRead, dataCheck_ok ha hp hb, Access.bind]

/-- A store that passes its checks is its bus cycle (R89). -/
theorem memWrite_ok {s : State} {p : Word} {n : Size} (ha : p.toNat % n.bytes = 0)
    (hp : s.permitted p n.bytes = true) (hb : s.baseUsable = true) (v : Word) :
    memWrite s p n v = (busWrite s (wordIndex (s.absolute p)) (storeLanes n (lane (s.absolute p)))
      (alignStore n (lane (s.absolute p)) v)).asAccess .dataStoreError := by
  simp [memWrite, dataCheck_ok ha hp hb, Access.bind]

/-- A fetch that passes its check is its bus cycle (R90). -/
theorem fetch_ok {s : State} (hp : s.permitted s.pc 4 = true) (hb : s.baseUsable = true) :
    fetch s = (busRead s (wordIndex (s.absolute s.pc))).asAccess .instructionAccessError := by
  simp [fetch, fetchCheck_ok hp hb, Access.bind]

/-! ### The environment -/

/-- A write of another master changes memory and the device log alone (R99). -/
theorem State.masterWrite_cases (s : State) (m : MasterWrite) :
    s.masterWrite m = s ∨ s.masterWrite m = { s with mem := s.mem.writeWord m.word m.bsel m.data } ∨
      s.masterWrite m = { s with deviceLog := .write m.word m.bsel m.data :: s.deviceLog } := by
  unfold State.masterWrite
  cases h : busWrite s m.word m.bsel m.data with
  | dtack u s' =>
    rcases busWrite_dtack h with ⟨_, rfl⟩ | ⟨_, rfl⟩
    · exact .inr (.inl rfl)
    · exact .inr (.inr rfl)
  | err => exact .inl rfl
  | noAnswer => exact .inl rfl

/-- Writes of other masters change memory and the device log alone (R99). -/
theorem State.masterWrites_eq (ms : List MasterWrite) (s : State) :
    ∃ m d, s.masterWrites ms = { s with mem := m, deviceLog := d } := by
  induction ms generalizing s with
  | nil => exact ⟨s.mem, s.deviceLog, rfl⟩
  | cons x rest ih =>
    obtain ⟨m, d, h⟩ := ih (s.masterWrite x)
    refine ⟨m, d, ?_⟩
    rw [State.masterWrites, h]
    rcases s.masterWrite_cases x with e | e | e <;> rw [e]

/-- Other masters keep memory in canonical form. -/
theorem State.masterWrites_wf (ms : List MasterWrite) {s : State} (h : Memory.wf s.mem) :
    Memory.wf (s.masterWrites ms).mem := by
  induction ms generalizing s with
  | nil => exact h
  | cons x rest ih =>
    rw [State.masterWrites]
    apply ih
    rcases s.masterWrite_cases x with e | e | e <;> rw [e]
    · exact h
    · exact Memory.wf_writeWord h _ _ _
    · exact h

@[simp] theorem State.masterWrites_nil (s : State) : s.masterWrites [] = s := rfl

/-- With no input left the turn is empty. -/
theorem State.turn_of_nil {s : State} (h : s.inputs = []) : s.turn = { before := [], midway := [] } := by
  simp [State.turn, h]

/-- With no input left the turn changes nothing. -/
theorem State.beginTurn_of_nil {s : State} (h : s.inputs = []) : s.beginTurn = s := by
  cases s
  simp_all [State.beginTurn, State.turn, State.events]

end Sys2Proof.Machine
end

