-- ==== Sys2Proof/Laws/Access.lean ====
section
/-! SUPPORT. The bytes of an access: what a word of memory is made of (`20_memory.md` R73, R74), what the aligners move
(R75, R342, R343), and what a load and a store are once their checks have passed (R88, R89). -/
namespace Sys2Proof.Machine

/-! ### Addresses -/

theorem wordIndex_toNat (a : Word) : (wordIndex a).toNat = a.toNat / 4 := by
  simp [wordIndex, BitVec.extractLsb'_toNat, Nat.shiftRight_eq_div_pow]
  have := a.isLt
  omega

theorem lane_toNat (a : Word) : (lane a).toNat = a.toNat % 4 := by simp [lane]

theorem lane_of_aligned {a : Word} (h : a.toNat % 4 = 0) : lane a = 0 := by
  apply BitVec.eq_of_toNat_eq
  rw [lane_toNat]
  simpa using h

/-- An address is the address of its lane in its word (R73). -/
theorem laneAddress_wordIndex (a : Word) : laneAddress (wordIndex a) (lane a).toNat = a.toNat := by
  rw [laneAddress, wordIndex_toNat, lane_toNat]
  omega

theorem wordAligned_eq (a : Word) : wordAligned a = decide (a.toNat % 4 = 0) := by
  unfold wordAligned
  rw [(show ((a.extractLsb' 0 2 == 0) = decide (a.extractLsb' 0 2 = 0)) from rfl), decide_eq_decide]
  constructor
  · intro h
    have := congrArg BitVec.toNat h
    simpa [BitVec.extractLsb'_toNat] using this
  · intro h
    apply BitVec.eq_of_toNat_eq
    simpa [BitVec.extractLsb'_toNat] using h

/-- Relocation with a usable BASE keeps the lane of an address (R80; log entry 10). -/
theorem State.absolute_mod_four {s : State} {p : Word} (hb : s.baseUsable = true) :
    (s.absolute p).toNat % 4 = p.toNat % 4 := by
  unfold State.baseUsable at hb
  unfold State.absolute
  cases hs : s.psr.s
  · rw [hs, Bool.false_or, wordAligned_eq, decide_eq_true_eq] at hb
    simp only [Bool.false_eq_true, if_false, BitVec.toNat_add]
    omega
  · simp

/-! ### The bytes of a word -/

/-- Byte `k` of `M[w]` is the byte at its address (R73). -/
theorem Memory.readWord_byte (m : Memory) (w : BitVec 30) {k : Nat} (hk : k < 4) :
    (m.readWord w).extractLsb' (8 * k) 8 = Memory.read m (laneAddress w k) := by
  apply BitVec.eq_of_getLsbD_eq
  intro i hi
  simp only [Memory.readWord, wordOfBytes, BitVec.getLsbD_extractLsb', BitVec.getLsbD_append, hi, decide_true,
    Bool.true_and]
  obtain rfl | rfl | rfl | rfl : k = 0 ∨ k = 1 ∨ k = 2 ∨ k = 3 := by omega
  · rw [if_pos (by omega)]; simp
  · rw [if_neg (by omega), if_pos (by omega)]; congr 1; omega
  · rw [if_neg (by omega), if_neg (by omega), if_pos (by omega)]; congr 1; omega
  · rw [if_neg (by omega), if_neg (by omega), if_neg (by omega)]; congr 1; omega

/-- A halfword of `M[w]` is its two bytes, the lower address the less significant (R74). -/
theorem Memory.readWord_half (m : Memory) (w : BitVec 30) {k : Nat} (hk : k < 3) :
    ((m.readWord w).extractLsb' (8 * k) 16).toNat = littleEndian m (laneAddress w k) 2 := by
  have h : (m.readWord w).extractLsb' (8 * k) 16 =
      Memory.read m (laneAddress w (k + 1)) ++ Memory.read m (laneAddress w k) := by
    rw [← Memory.readWord_byte m w (k := k) (by omega), ← Memory.readWord_byte m w (k := k + 1) (by omega)]
    apply BitVec.eq_of_getLsbD_eq
    intro i hi
    simp only [BitVec.getLsbD_extractLsb', BitVec.getLsbD_append]
    by_cases h : i < 8
    · simp [h]; omega
    · simp [h, hi]; rw [show 8 * (k + 1) + (i - 8) = 8 * k + i by omega]; simp; omega
  rw [h, BitVec.toNat_append, ← Nat.shiftLeft_add_eq_or_of_lt (Memory.read m (laneAddress w k)).isLt,
    Nat.shiftLeft_eq]
  simp [littleEndian, laneAddress]
  rw [Nat.add_assoc]
  omega

/-- `M[w]` is its four bytes, the lowest address the least significant (R74). -/
theorem Memory.readWord_toNat (m : Memory) (w : BitVec 30) :
    (m.readWord w).toNat = littleEndian m (laneAddress w 0) 4 := by
  simp only [Memory.readWord, wordOfBytes]
  rw [BitVec.toNat_append, ← Nat.shiftLeft_add_eq_or_of_lt (BitVec.isLt _), BitVec.toNat_append,
    ← Nat.shiftLeft_add_eq_or_of_lt (BitVec.isLt _), BitVec.toNat_append,
    ← Nat.shiftLeft_add_eq_or_of_lt (BitVec.isLt _)]
  simp only [Nat.shiftLeft_eq, littleEndian, laneAddress, Nat.add_assoc, Nat.add_zero, Nat.reduceAdd, Nat.mul_zero]
  omega

/-! ### The aligners -/

theorem Size.mask_bit (n : Size) (i : Nat) : n.mask.getLsbD i = decide (i < 8 * n.bytes) := by
  have h : ∀ k, k ≤ 32 → (BitVec.setWidth 32 (BitVec.allOnes k)).getLsbD i = decide (i < k) := by
    intro k hk
    simp only [BitVec.getLsbD_setWidth, BitVec.getLsbD_allOnes]
    by_cases hi : i < k
    · simp [hi]; omega
    · simp [hi]
  cases n
  · exact h 8 (by decide)
  · exact h 16 (by decide)
  · exact h 32 (by decide)

theorem alignLoad_bit (n : Size) (k : BitVec 2) (w : Word) (i : Nat) :
    (alignLoad n k w).getLsbD i = (decide (i < 8 * n.bytes) && w.getLsbD (8 * k.toNat + i)) := by
  rw [alignLoad, BitVec.getLsbD_and, Size.mask_bit, BitVec.getLsbD_ushiftRight, Bool.and_comm]

/-- A byte load takes the byte of its lane (R75). -/
theorem alignLoad_byte (k : BitVec 2) (w : Word) :
    alignLoad .byte k w = (w.extractLsb' (8 * k.toNat) 8).setWidth 32 := by
  apply BitVec.eq_of_getLsbD_eq
  intro i hi
  simp [alignLoad_bit, Size.bytes, BitVec.getLsbD_extractLsb', hi, -BitVec.getLsbD_eq_getElem]

/-- A halfword load takes the halfword from its lane (R75). -/
theorem alignLoad_half (k : BitVec 2) (w : Word) :
    alignLoad .half k w = (w.extractLsb' (8 * k.toNat) 16).setWidth 32 := by
  apply BitVec.eq_of_getLsbD_eq
  intro i hi
  simp [alignLoad_bit, Size.bytes, BitVec.getLsbD_extractLsb', hi, -BitVec.getLsbD_eq_getElem]
  rfl

/-- A word load takes the word (R75). -/
theorem alignLoad_word (w : Word) : alignLoad .word 0 w = w := by
  apply BitVec.eq_of_getLsbD_eq
  intro i hi
  simp [alignLoad_bit, Size.bytes, hi, -BitVec.getLsbD_eq_getElem]

theorem Size.lanes_bit (n : Size) (i : Nat) : n.lanes.getLsbD i = decide (i < n.bytes) := by
  by_cases hi : i < 4
  · interval_cases i <;> cases n <;> rfl
  · rw [BitVec.getLsbD_of_ge _ _ (by omega)]
    symm
    simp only [decide_eq_false_iff_not]
    cases n <;> simp only [Size.bytes] <;> omega

/-- The selected lanes of a store (R89). -/
theorem storeLanes_bit (n : Size) (k : BitVec 2) {i : Nat} (hi : i < 4) :
    (storeLanes n k).getLsbD i = decide (k.toNat ≤ i ∧ i < k.toNat + n.bytes) := by
  rw [storeLanes, BitVec.getLsbD_shiftLeft, Size.lanes_bit]
  rw [show decide (i < 4) = true by simpa using hi, Bool.true_and, Bool.eq_iff_iff]
  simp only [Bool.and_eq_true, Bool.not_eq_true', decide_eq_false_iff_not, decide_eq_true_eq]
  omega

/-- The byte a store puts in a selected lane (R343). -/
theorem alignStore_byte (n : Size) (k : BitVec 2) (v : Word) {i : Nat} (h1 : k.toNat ≤ i) (h2 : i < k.toNat + n.bytes)
    (h4 : i < 4) : byteOfWord (alignStore n k v) i = v.extractLsb' (8 * (i - k.toNat)) 8 := by
  apply BitVec.eq_of_getLsbD_eq
  intro j hj
  simp only [byteOfWord, BitVec.getLsbD_extractLsb', hj, decide_true, Bool.true_and, alignStore,
    BitVec.getLsbD_shiftLeft, BitVec.getLsbD_and, Size.mask_bit]
  rw [show 8 * i + j - 8 * k.toNat = 8 * (i - k.toNat) + j by omega,
    show decide (8 * i + j < 32) = true by simp; omega,
    show decide (8 * i + j < 8 * k.toNat) = false by simp; omega,
    show decide (8 * (i - k.toNat) + j < 8 * n.bytes) = true by simp; omega]
  simp

/-! ### Loads and stores that pass their checks -/

/-- A load answered by memory (R88). -/
theorem memRead_memory {s : State} {p : Word} {n : Size} (ha : p.toNat % n.bytes = 0)
    (hp : s.permitted p n.bytes = true) (hb : s.baseUsable = true) (hm : s.answers p = .memory) :
    memRead s p n = .done (alignLoad n (lane (s.absolute p)) (s.mem.readWord (wordIndex (s.absolute p)))) s := by
  unfold State.answers at hm
  rw [memRead_ok ha hp hb]
  simp [busRead, hm, BusReply.asAccess, Access.bind]

/-- A load answered by a device (R88, R100). -/
theorem memRead_device {s : State} {p : Word} {n : Size} (ha : p.toNat % n.bytes = 0)
    (hp : s.permitted p n.bytes = true) (hb : s.baseUsable = true) (hm : s.answers p = .device) :
    memRead s p n =
      .done (alignLoad n (lane (s.absolute p)) (Config.deviceWord s.deviceLog (wordIndex (s.absolute p))))
        { s with deviceLog := .read (wordIndex (s.absolute p)) :: s.deviceLog } := by
  unfold State.answers at hm
  rw [memRead_ok ha hp hb]
  simp [busRead, hm, BusReply.asAccess, Access.bind]

/-- A store answered by memory (R89). -/
theorem memWrite_memory {s : State} {p : Word} {n : Size} (ha : p.toNat % n.bytes = 0)
    (hp : s.permitted p n.bytes = true) (hb : s.baseUsable = true) (hm : s.answers p = .memory) (v : Word) :
    memWrite s p n v = .done ()
      { s with mem := s.mem.writeWord (wordIndex (s.absolute p)) (storeLanes n (lane (s.absolute p)))
                        (alignStore n (lane (s.absolute p)) v) } := by
  unfold State.answers at hm
  rw [memWrite_ok ha hp hb]
  simp [busWrite, hm, BusReply.asAccess]

/-- A store answered by a device (R89, R100). -/
theorem memWrite_device {s : State} {p : Word} {n : Size} (ha : p.toNat % n.bytes = 0)
    (hp : s.permitted p n.bytes = true) (hb : s.baseUsable = true) (hm : s.answers p = .device) (v : Word) :
    memWrite s p n v = .done ()
      { s with deviceLog := .write (wordIndex (s.absolute p)) (storeLanes n (lane (s.absolute p)))
                              (alignStore n (lane (s.absolute p)) v) :: s.deviceLog } := by
  unfold State.answers at hm
  rw [memWrite_ok ha hp hb]
  simp [busWrite, hm, BusReply.asAccess]

/-- What trap entry leaves in the two saved registers (R420). -/
theorem State.takeTrap_saved (s : State) (t : TrapType) :
    (s.takeTrap t).reg 17 = s.pc ∧ (s.takeTrap t).reg 18 = s.npc := by
  constructor
  · rw [State.reg_windowed _ (by decide), State.takeTrap_win_get, State.takeTrap_psr,
      if_neg (by intro e; exact absurd (windowIndex_inj (by decide) (by decide) e) (by decide)), if_pos rfl]
  · rw [State.reg_windowed _ (by decide), State.takeTrap_win_get, State.takeTrap_psr, if_pos rfl]

end Sys2Proof.Machine
end

