-- ==== Sys2Proof/Laws/PerInstr.lean ====
section
/-! SUPPORT. One lemma per instruction: the word the encoder writes matches the instruction's row of
`spec/opcode_table.json` (its mask and pattern, copied here from the table). -/
namespace Sys2Proof.Laws

/-- A row of the table: the bits of `mask` in a word are those of `pattern`. -/
def matchesRow (w mask pattern : Word) : Prop := w &&& mask = pattern

/-- The mask and pattern of an instruction's row. -/
def tableRow : Instr → Word × Word
  | .ld _ _ _ => (0xC1F80000, 0xC0000000)
  | .ldub _ _ _ => (0xC1F80000, 0xC0080000)
  | .lduh _ _ _ => (0xC1F80000, 0xC0100000)
  | .ldsb _ _ _ => (0xC1F80000, 0xC0480000)
  | .ldsh _ _ _ => (0xC1F80000, 0xC0500000)
  | .st _ _ _ => (0xC1F80000, 0xC0200000)
  | .stb _ _ _ => (0xC1F80000, 0xC0280000)
  | .sth _ _ _ => (0xC1F80000, 0xC0300000)
  | .sethi _ _ => (0xC1C00000, 0x01000000)
  | .nop => (0xFFFFFFFF, 0x01000000)
  | .and _ _ _ => (0xC1F80000, 0x80080000)
  | .andcc _ _ _ => (0xC1F80000, 0x80880000)
  | .or _ _ _ => (0xC1F80000, 0x80100000)
  | .orcc _ _ _ => (0xC1F80000, 0x80900000)
  | .xor _ _ _ => (0xC1F80000, 0x80180000)
  | .xorcc _ _ _ => (0xC1F80000, 0x80980000)
  | .andn _ _ _ => (0xC1F80000, 0x80280000)
  | .andncc _ _ _ => (0xC1F80000, 0x80A80000)
  | .orn _ _ _ => (0xC1F80000, 0x80300000)
  | .orncc _ _ _ => (0xC1F80000, 0x80B00000)
  | .xnor _ _ _ => (0xC1F80000, 0x80380000)
  | .xnorcc _ _ _ => (0xC1F80000, 0x80B80000)
  | .add _ _ _ => (0xC1F80000, 0x80000000)
  | .addcc _ _ _ => (0xC1F80000, 0x80800000)
  | .sub _ _ _ => (0xC1F80000, 0x80200000)
  | .subcc _ _ _ => (0xC1F80000, 0x80A00000)
  | .umul _ _ _ => (0xC1F80000, 0x80500000)
  | .umulcc _ _ _ => (0xC1F80000, 0x80D00000)
  | .smul _ _ _ => (0xC1F80000, 0x80580000)
  | .smulcc _ _ _ => (0xC1F80000, 0x80D80000)
  | .udiv _ _ _ => (0xC1F80000, 0x80700000)
  | .udivcc _ _ _ => (0xC1F80000, 0x80F00000)
  | .sdiv _ _ _ => (0xC1F80000, 0x80780000)
  | .sdivcc _ _ _ => (0xC1F80000, 0x80F80000)
  | .sll _ _ _ => (0xC1F80000, 0x81280000)
  | .srl _ _ _ => (0xC1F80000, 0x81300000)
  | .sra _ _ _ => (0xC1F80000, 0x81380000)
  | .bn _ _ => (0xDFC00000, 0x00800000)
  | .be _ _ => (0xDFC00000, 0x02800000)
  | .ble _ _ => (0xDFC00000, 0x04800000)
  | .bl _ _ => (0xDFC00000, 0x06800000)
  | .bleu _ _ => (0xDFC00000, 0x08800000)
  | .bcs _ _ => (0xDFC00000, 0x0A800000)
  | .bneg _ _ => (0xDFC00000, 0x0C800000)
  | .bvs _ _ => (0xDFC00000, 0x0E800000)
  | .ba _ _ => (0xDFC00000, 0x10800000)
  | .bne _ _ => (0xDFC00000, 0x12800000)
  | .bg _ _ => (0xDFC00000, 0x14800000)
  | .bge _ _ => (0xDFC00000, 0x16800000)
  | .bgu _ _ => (0xDFC00000, 0x18800000)
  | .bcc _ _ => (0xDFC00000, 0x1A800000)
  | .bpos _ _ => (0xDFC00000, 0x1C800000)
  | .bvc _ _ => (0xDFC00000, 0x1E800000)
  | .jmp _ _ _ => (0xC1F80000, 0x81C00000)
  | .rett _ _ => (0xC1F80000, 0x81C80000)
  | .call _ => (0xC0000000, 0x40000000)
  | .save _ _ _ => (0xC1F80000, 0x81E00000)
  | .restore _ _ _ => (0xC1F80000, 0x81E80000)
  | .tn _ _ => (0xDFF80000, 0x81D00000)
  | .te _ _ => (0xDFF80000, 0x83D00000)
  | .tle _ _ => (0xDFF80000, 0x85D00000)
  | .tl _ _ => (0xDFF80000, 0x87D00000)
  | .tleu _ _ => (0xDFF80000, 0x89D00000)
  | .tcs _ _ => (0xDFF80000, 0x8BD00000)
  | .tneg _ _ => (0xDFF80000, 0x8DD00000)
  | .tvs _ _ => (0xDFF80000, 0x8FD00000)
  | .ta _ _ => (0xDFF80000, 0x91D00000)
  | .tne _ _ => (0xDFF80000, 0x93D00000)
  | .tg _ _ => (0xDFF80000, 0x95D00000)
  | .tge _ _ => (0xDFF80000, 0x97D00000)
  | .tgu _ _ => (0xDFF80000, 0x99D00000)
  | .tcc _ _ => (0xDFF80000, 0x9BD00000)
  | .tpos _ _ => (0xDFF80000, 0x9DD00000)
  | .tvc _ _ => (0xDFF80000, 0x9FD00000)
  | .rdY _ => (0xC1FFC000, 0x81400000)
  | .rdBase _ => (0xC1FFC000, 0x81404000)
  | .rdLimite _ => (0xC1FFC000, 0x81408000)
  | .rdPsr _ => (0xC1F80000, 0x81480000)
  | .rdWim _ => (0xC1F80000, 0x81500000)
  | .rdTbr _ => (0xC1F80000, 0x81580000)
  | .wrY _ _ => (0xFFF80000, 0x81800000)
  | .wrBase _ _ => (0xFFF80000, 0x83800000)
  | .wrLimite _ _ => (0xFFF80000, 0x85800000)
  | .wrPsr _ _ => (0xC1F80000, 0x81880000)
  | .wrWim _ _ => (0xC1F80000, 0x81900000)
  | .wrTbr _ _ => (0xC1F80000, 0x81980000)

/-- The word of the instruction matches its row. -/
def TableRow.Statement (i : Instr) : Prop := matchesRow (encode i) (tableRow i).1 (tableRow i).2

/-! ### One lemma per shape of word -/

/-- op and op3 are the row's (R114). -/
theorem matchesRow_word3 (op : BitVec 2) (rd : RegNum) (op3 : BitVec 6) (ro1 : RegNum) (low : BitVec 14) :
    matchesRow (word3 op rd op3 ro1 low) 0xC1F80000 (word3 op 0 op3 0 0) := by
  apply BitVec.eq_of_getLsbD_eq
  intro i hi
  simp only [word3, BitVec.getLsbD_and, BitVec.getLsbD_append]
  interval_cases i <;> simp

/-- op, op3 and the register selected by `ro1` are the row's (R129). -/
theorem matchesRow_read (op : BitVec 2) (rd : RegNum) (op3 : BitVec 6) (ro1 : RegNum) (low : BitVec 14) :
    matchesRow (word3 op rd op3 ro1 low) 0xC1FFC000 (word3 op 0 op3 ro1 0) := by
  apply BitVec.eq_of_getLsbD_eq
  intro i hi
  simp only [word3, BitVec.getLsbD_and, BitVec.getLsbD_append]
  interval_cases i <;> simp

/-- op, op3 and the register selected by bits 29:25 are the row's (R130). -/
theorem matchesRow_write (op : BitVec 2) (rd : RegNum) (op3 : BitVec 6) (ro1 : RegNum) (low : BitVec 14) :
    matchesRow (word3 op rd op3 ro1 low) 0xFFF80000 (word3 op rd op3 0 0) := by
  apply BitVec.eq_of_getLsbD_eq
  intro i hi
  simp only [word3, BitVec.getLsbD_and, BitVec.getLsbD_append]
  interval_cases i <;> simp

/-- op, cond and op2 are the row's (R113). -/
theorem matchesRow_branchWord (c : Cond) (a : Bool) (d : BitVec 22) :
    matchesRow (branchWord c a d) 0xDFC00000 (branchWord c false 0) := by
  apply BitVec.eq_of_getLsbD_eq
  intro i hi
  simp only [branchWord, BitVec.getLsbD_and, BitVec.getLsbD_append]
  interval_cases i <;> simp

/-- op, cond and op3 are the row's (R115). -/
theorem matchesRow_trapWord (c : Cond) (ro1 : RegNum) (o : Operand2) :
    matchesRow (trapWord c ro1 o) 0xDFF80000 (trapWord c 0 (.reg 0)) := by
  apply BitVec.eq_of_getLsbD_eq
  intro i hi
  simp only [trapWord, operandBits, BitVec.getLsbD_and, BitVec.getLsbD_append]
  interval_cases i <;> simp

/-! ### One lemma per instruction -/

theorem TableRow.ld (rd : RegNum) (ro1 : RegNum) (o : Operand2) : TableRow.Statement (.ld rd ro1 o) :=
  matchesRow_word3 _ _ _ _ _
theorem TableRow.ldub (rd : RegNum) (ro1 : RegNum) (o : Operand2) : TableRow.Statement (.ldub rd ro1 o) :=
  matchesRow_word3 _ _ _ _ _
theorem TableRow.lduh (rd : RegNum) (ro1 : RegNum) (o : Operand2) : TableRow.Statement (.lduh rd ro1 o) :=
  matchesRow_word3 _ _ _ _ _
theorem TableRow.ldsb (rd : RegNum) (ro1 : RegNum) (o : Operand2) : TableRow.Statement (.ldsb rd ro1 o) :=
  matchesRow_word3 _ _ _ _ _
theorem TableRow.ldsh (rd : RegNum) (ro1 : RegNum) (o : Operand2) : TableRow.Statement (.ldsh rd ro1 o) :=
  matchesRow_word3 _ _ _ _ _
theorem TableRow.st (rd : RegNum) (ro1 : RegNum) (o : Operand2) : TableRow.Statement (.st rd ro1 o) :=
  matchesRow_word3 _ _ _ _ _
theorem TableRow.stb (rd : RegNum) (ro1 : RegNum) (o : Operand2) : TableRow.Statement (.stb rd ro1 o) :=
  matchesRow_word3 _ _ _ _ _
theorem TableRow.sth (rd : RegNum) (ro1 : RegNum) (o : Operand2) : TableRow.Statement (.sth rd ro1 o) :=
  matchesRow_word3 _ _ _ _ _
theorem TableRow.sethi (rd : RegNum) (const22 : BitVec 22) : TableRow.Statement (.sethi rd const22) := by
  apply BitVec.eq_of_getLsbD_eq
  intro i hi
  simp only [encode, tableRow, BitVec.getLsbD_and, BitVec.getLsbD_append]
  interval_cases i <;> simp
theorem TableRow.nop : TableRow.Statement .nop :=
  rfl
theorem TableRow.and (rd : RegNum) (ro1 : RegNum) (o : Operand2) : TableRow.Statement (.and rd ro1 o) :=
  matchesRow_word3 _ _ _ _ _
theorem TableRow.andcc (rd : RegNum) (ro1 : RegNum) (o : Operand2) : TableRow.Statement (.andcc rd ro1 o) :=
  matchesRow_word3 _ _ _ _ _
theorem TableRow.or (rd : RegNum) (ro1 : RegNum) (o : Operand2) : TableRow.Statement (.or rd ro1 o) :=
  matchesRow_word3 _ _ _ _ _
theorem TableRow.orcc (rd : RegNum) (ro1 : RegNum) (o : Operand2) : TableRow.Statement (.orcc rd ro1 o) :=
  matchesRow_word3 _ _ _ _ _
theorem TableRow.xor (rd : RegNum) (ro1 : RegNum) (o : Operand2) : TableRow.Statement (.xor rd ro1 o) :=
  matchesRow_word3 _ _ _ _ _
theorem TableRow.xorcc (rd : RegNum) (ro1 : RegNum) (o : Operand2) : TableRow.Statement (.xorcc rd ro1 o) :=
  matchesRow_word3 _ _ _ _ _
theorem TableRow.andn (rd : RegNum) (ro1 : RegNum) (o : Operand2) : TableRow.Statement (.andn rd ro1 o) :=
  matchesRow_word3 _ _ _ _ _
theorem TableRow.andncc (rd : RegNum) (ro1 : RegNum) (o : Operand2) : TableRow.Statement (.andncc rd ro1 o) :=
  matchesRow_word3 _ _ _ _ _
theorem TableRow.orn (rd : RegNum) (ro1 : RegNum) (o : Operand2) : TableRow.Statement (.orn rd ro1 o) :=
  matchesRow_word3 _ _ _ _ _
theorem TableRow.orncc (rd : RegNum) (ro1 : RegNum) (o : Operand2) : TableRow.Statement (.orncc rd ro1 o) :=
  matchesRow_word3 _ _ _ _ _
theorem TableRow.xnor (rd : RegNum) (ro1 : RegNum) (o : Operand2) : TableRow.Statement (.xnor rd ro1 o) :=
  matchesRow_word3 _ _ _ _ _
theorem TableRow.xnorcc (rd : RegNum) (ro1 : RegNum) (o : Operand2) : TableRow.Statement (.xnorcc rd ro1 o) :=
  matchesRow_word3 _ _ _ _ _
theorem TableRow.add (rd : RegNum) (ro1 : RegNum) (o : Operand2) : TableRow.Statement (.add rd ro1 o) :=
  matchesRow_word3 _ _ _ _ _
theorem TableRow.addcc (rd : RegNum) (ro1 : RegNum) (o : Operand2) : TableRow.Statement (.addcc rd ro1 o) :=
  matchesRow_word3 _ _ _ _ _
theorem TableRow.sub (rd : RegNum) (ro1 : RegNum) (o : Operand2) : TableRow.Statement (.sub rd ro1 o) :=
  matchesRow_word3 _ _ _ _ _
theorem TableRow.subcc (rd : RegNum) (ro1 : RegNum) (o : Operand2) : TableRow.Statement (.subcc rd ro1 o) :=
  matchesRow_word3 _ _ _ _ _
theorem TableRow.umul (rd : RegNum) (ro1 : RegNum) (o : Operand2) : TableRow.Statement (.umul rd ro1 o) :=
  matchesRow_word3 _ _ _ _ _
theorem TableRow.umulcc (rd : RegNum) (ro1 : RegNum) (o : Operand2) : TableRow.Statement (.umulcc rd ro1 o) :=
  matchesRow_word3 _ _ _ _ _
theorem TableRow.smul (rd : RegNum) (ro1 : RegNum) (o : Operand2) : TableRow.Statement (.smul rd ro1 o) :=
  matchesRow_word3 _ _ _ _ _
theorem TableRow.smulcc (rd : RegNum) (ro1 : RegNum) (o : Operand2) : TableRow.Statement (.smulcc rd ro1 o) :=
  matchesRow_word3 _ _ _ _ _
theorem TableRow.udiv (rd : RegNum) (ro1 : RegNum) (o : Operand2) : TableRow.Statement (.udiv rd ro1 o) :=
  matchesRow_word3 _ _ _ _ _
theorem TableRow.udivcc (rd : RegNum) (ro1 : RegNum) (o : Operand2) : TableRow.Statement (.udivcc rd ro1 o) :=
  matchesRow_word3 _ _ _ _ _
theorem TableRow.sdiv (rd : RegNum) (ro1 : RegNum) (o : Operand2) : TableRow.Statement (.sdiv rd ro1 o) :=
  matchesRow_word3 _ _ _ _ _
theorem TableRow.sdivcc (rd : RegNum) (ro1 : RegNum) (o : Operand2) : TableRow.Statement (.sdivcc rd ro1 o) :=
  matchesRow_word3 _ _ _ _ _
theorem TableRow.sll (rd : RegNum) (ro1 : RegNum) (n : ShiftCount) : TableRow.Statement (.sll rd ro1 n) :=
  matchesRow_word3 _ _ _ _ _
theorem TableRow.srl (rd : RegNum) (ro1 : RegNum) (n : ShiftCount) : TableRow.Statement (.srl rd ro1 n) :=
  matchesRow_word3 _ _ _ _ _
theorem TableRow.sra (rd : RegNum) (ro1 : RegNum) (n : ShiftCount) : TableRow.Statement (.sra rd ro1 n) :=
  matchesRow_word3 _ _ _ _ _
theorem TableRow.bn (a : Bool) (disp22 : BitVec 22) : TableRow.Statement (.bn a disp22) :=
  matchesRow_branchWord _ _ _
theorem TableRow.be (a : Bool) (disp22 : BitVec 22) : TableRow.Statement (.be a disp22) :=
  matchesRow_branchWord _ _ _
theorem TableRow.ble (a : Bool) (disp22 : BitVec 22) : TableRow.Statement (.ble a disp22) :=
  matchesRow_branchWord _ _ _
theorem TableRow.bl (a : Bool) (disp22 : BitVec 22) : TableRow.Statement (.bl a disp22) :=
  matchesRow_branchWord _ _ _
theorem TableRow.bleu (a : Bool) (disp22 : BitVec 22) : TableRow.Statement (.bleu a disp22) :=
  matchesRow_branchWord _ _ _
theorem TableRow.bcs (a : Bool) (disp22 : BitVec 22) : TableRow.Statement (.bcs a disp22) :=
  matchesRow_branchWord _ _ _
theorem TableRow.bneg (a : Bool) (disp22 : BitVec 22) : TableRow.Statement (.bneg a disp22) :=
  matchesRow_branchWord _ _ _
theorem TableRow.bvs (a : Bool) (disp22 : BitVec 22) : TableRow.Statement (.bvs a disp22) :=
  matchesRow_branchWord _ _ _
theorem TableRow.ba (a : Bool) (disp22 : BitVec 22) : TableRow.Statement (.ba a disp22) :=
  matchesRow_branchWord _ _ _
theorem TableRow.bne (a : Bool) (disp22 : BitVec 22) : TableRow.Statement (.bne a disp22) :=
  matchesRow_branchWord _ _ _
theorem TableRow.bg (a : Bool) (disp22 : BitVec 22) : TableRow.Statement (.bg a disp22) :=
  matchesRow_branchWord _ _ _
theorem TableRow.bge (a : Bool) (disp22 : BitVec 22) : TableRow.Statement (.bge a disp22) :=
  matchesRow_branchWord _ _ _
theorem TableRow.bgu (a : Bool) (disp22 : BitVec 22) : TableRow.Statement (.bgu a disp22) :=
  matchesRow_branchWord _ _ _
theorem TableRow.bcc (a : Bool) (disp22 : BitVec 22) : TableRow.Statement (.bcc a disp22) :=
  matchesRow_branchWord _ _ _
theorem TableRow.bpos (a : Bool) (disp22 : BitVec 22) : TableRow.Statement (.bpos a disp22) :=
  matchesRow_branchWord _ _ _
theorem TableRow.bvc (a : Bool) (disp22 : BitVec 22) : TableRow.Statement (.bvc a disp22) :=
  matchesRow_branchWord _ _ _
theorem TableRow.jmp (rd : RegNum) (ro1 : RegNum) (o : Operand2) : TableRow.Statement (.jmp rd ro1 o) :=
  matchesRow_word3 _ _ _ _ _
theorem TableRow.rett (ro1 : RegNum) (o : Operand2) : TableRow.Statement (.rett ro1 o) :=
  matchesRow_word3 _ _ _ _ _
theorem TableRow.call (disp30 : BitVec 30) : TableRow.Statement (.call disp30) := by
  apply BitVec.eq_of_getLsbD_eq
  intro i hi
  simp only [encode, tableRow, BitVec.getLsbD_and, BitVec.getLsbD_append]
  interval_cases i <;> simp
theorem TableRow.save (rd : RegNum) (ro1 : RegNum) (o : Operand2) : TableRow.Statement (.save rd ro1 o) :=
  matchesRow_word3 _ _ _ _ _
theorem TableRow.restore (rd : RegNum) (ro1 : RegNum) (o : Operand2) : TableRow.Statement (.restore rd ro1 o) :=
  matchesRow_word3 _ _ _ _ _
theorem TableRow.tn (ro1 : RegNum) (o : Operand2) : TableRow.Statement (.tn ro1 o) :=
  matchesRow_trapWord _ _ _
theorem TableRow.te (ro1 : RegNum) (o : Operand2) : TableRow.Statement (.te ro1 o) :=
  matchesRow_trapWord _ _ _
theorem TableRow.tle (ro1 : RegNum) (o : Operand2) : TableRow.Statement (.tle ro1 o) :=
  matchesRow_trapWord _ _ _
theorem TableRow.tl (ro1 : RegNum) (o : Operand2) : TableRow.Statement (.tl ro1 o) :=
  matchesRow_trapWord _ _ _
theorem TableRow.tleu (ro1 : RegNum) (o : Operand2) : TableRow.Statement (.tleu ro1 o) :=
  matchesRow_trapWord _ _ _
theorem TableRow.tcs (ro1 : RegNum) (o : Operand2) : TableRow.Statement (.tcs ro1 o) :=
  matchesRow_trapWord _ _ _
theorem TableRow.tneg (ro1 : RegNum) (o : Operand2) : TableRow.Statement (.tneg ro1 o) :=
  matchesRow_trapWord _ _ _
theorem TableRow.tvs (ro1 : RegNum) (o : Operand2) : TableRow.Statement (.tvs ro1 o) :=
  matchesRow_trapWord _ _ _
theorem TableRow.ta (ro1 : RegNum) (o : Operand2) : TableRow.Statement (.ta ro1 o) :=
  matchesRow_trapWord _ _ _
theorem TableRow.tne (ro1 : RegNum) (o : Operand2) : TableRow.Statement (.tne ro1 o) :=
  matchesRow_trapWord _ _ _
theorem TableRow.tg (ro1 : RegNum) (o : Operand2) : TableRow.Statement (.tg ro1 o) :=
  matchesRow_trapWord _ _ _
theorem TableRow.tge (ro1 : RegNum) (o : Operand2) : TableRow.Statement (.tge ro1 o) :=
  matchesRow_trapWord _ _ _
theorem TableRow.tgu (ro1 : RegNum) (o : Operand2) : TableRow.Statement (.tgu ro1 o) :=
  matchesRow_trapWord _ _ _
theorem TableRow.tcc (ro1 : RegNum) (o : Operand2) : TableRow.Statement (.tcc ro1 o) :=
  matchesRow_trapWord _ _ _
theorem TableRow.tpos (ro1 : RegNum) (o : Operand2) : TableRow.Statement (.tpos ro1 o) :=
  matchesRow_trapWord _ _ _
theorem TableRow.tvc (ro1 : RegNum) (o : Operand2) : TableRow.Statement (.tvc ro1 o) :=
  matchesRow_trapWord _ _ _
theorem TableRow.rdY (rd : RegNum) : TableRow.Statement (.rdY rd) :=
  matchesRow_read _ _ _ _ _
theorem TableRow.rdBase (rd : RegNum) : TableRow.Statement (.rdBase rd) :=
  matchesRow_read _ _ _ _ _
theorem TableRow.rdLimite (rd : RegNum) : TableRow.Statement (.rdLimite rd) :=
  matchesRow_read _ _ _ _ _
theorem TableRow.rdPsr (rd : RegNum) : TableRow.Statement (.rdPsr rd) :=
  matchesRow_word3 _ _ _ _ _
theorem TableRow.rdWim (rd : RegNum) : TableRow.Statement (.rdWim rd) :=
  matchesRow_word3 _ _ _ _ _
theorem TableRow.rdTbr (rd : RegNum) : TableRow.Statement (.rdTbr rd) :=
  matchesRow_word3 _ _ _ _ _
theorem TableRow.wrY (ro1 : RegNum) (o : Operand2) : TableRow.Statement (.wrY ro1 o) :=
  matchesRow_write _ _ _ _ _
theorem TableRow.wrBase (ro1 : RegNum) (o : Operand2) : TableRow.Statement (.wrBase ro1 o) :=
  matchesRow_write _ _ _ _ _
theorem TableRow.wrLimite (ro1 : RegNum) (o : Operand2) : TableRow.Statement (.wrLimite ro1 o) :=
  matchesRow_write _ _ _ _ _
theorem TableRow.wrPsr (ro1 : RegNum) (o : Operand2) : TableRow.Statement (.wrPsr ro1 o) :=
  matchesRow_word3 _ _ _ _ _
theorem TableRow.wrWim (ro1 : RegNum) (o : Operand2) : TableRow.Statement (.wrWim ro1 o) :=
  matchesRow_word3 _ _ _ _ _
theorem TableRow.wrTbr (ro1 : RegNum) (o : Operand2) : TableRow.Statement (.wrTbr ro1 o) :=
  matchesRow_word3 _ _ _ _ _

end Sys2Proof.Laws
end

