-- ==== Sys2Proof/Laws/Results.lean ====
section
/-! SUPPORT. What the shared ends of an instruction leave, in the terms of `Safety`: one lemma per end. -/
namespace Sys2Proof.Machine

theorem KeepsRegisters.of_eq {s t : State} (hg : t.glob = s.glob) (hw : t.win = s.win) : KeepsRegisters s t :=
  ⟨fun i => by rw [hg], fun j => by rw [hw]⟩

theorem KeepsCodes.of_eq {s t : State} (h : t.psr = s.psr) : KeepsCodes s t :=
  ⟨by rw [h], by rw [h], by rw [h], by rw [h]⟩

theorem KeepsMode.of_eq {s t : State} (h : t.psr = s.psr) : KeepsMode s t :=
  ⟨by rw [h], by rw [h], by rw [h], by rw [h]⟩

theorem KeepsMemory.of_eq {s t : State} (hm : t.mem = s.mem) (hd : t.deviceLog = s.deviceLog) : KeepsMemory s t :=
  ⟨fun a => by rw [hm], hd⟩

/-- A register write, in the window of its moment (R24). -/
theorem onlyRegister_setReg (s : State) (rd : RegNum) (v : Word) : OnlyRegister s (s.setReg rd v) s.psr.cwp rd v :=
  ⟨s.setReg_glob_get rd v, s.setReg_win_get rd v⟩

/-- Only the two register arrays matter to `OnlyRegister`. -/
theorem OnlyRegister.congr {s t s' t' : State} {w : BitVec 5} {rd : RegNum} {v : Word} (h : OnlyRegister s t w rd v)
    (hg : t'.glob = t.glob) (hw : t'.win = t.win) (hg' : s'.glob = s.glob) (hw' : s'.win = s.win) :
    OnlyRegister s' t' w rd v :=
  ⟨fun i => by rw [hg, hg']; exact h.glob i, fun j => by rw [hw, hw']; exact h.win j⟩

/-- The end `x[rd] <- r` (R181). -/
theorem State.result_writesOnly (s : State) (rd : RegNum) (r : Word) :
    ∃ t, s.result rd r = .next t ∧ WritesOnly s t rd r := by
  refine ⟨_, rfl, ⟨(onlyRegister_setReg s rd r).congr rfl rfl rfl rfl, .of_eq ?_, ?_, ?_,
    ⟨.of_eq ?_, ⟨?_, ?_, ?_, ?_⟩, .of_eq ?_ ?_, ⟨?_, ?_, ?_, ?_⟩⟩, ⟨?_, ?_⟩⟩⟩
  all_goals simp

/-- The end `x[rd] <- r` and the condition codes (R176). -/
theorem State.resultCodes_writes (s : State) (rd : RegNum) (r : Word) (f : CondCodes) :
    ∃ t, s.resultCodes rd r f = .next t ∧ WritesWithCodes s t rd r f.n f.z f.v f.c := by
  refine ⟨_, rfl, ⟨(onlyRegister_setReg s rd r).congr rfl rfl rfl rfl, ⟨?_, ?_, ?_, ?_⟩, ?_, ?_,
    ⟨⟨?_, ?_, ?_, ?_⟩, ⟨?_, ?_, ?_, ?_⟩, .of_eq ?_ ?_, ⟨?_, ?_, ?_, ?_⟩⟩, ⟨?_, ?_⟩⟩⟩
  all_goals simp [Psr.setCodes]

/-- The end of a multiplication (R198, R200). -/
theorem State.product_writes (s : State) (rd : RegNum) (p : BitVec 64) :
    ∃ t, s.product rd p = .next t ∧ WritesWithY s t rd (lowWord p) (highWord p) := by
  refine ⟨_, rfl, ⟨(onlyRegister_setReg s rd _).congr rfl rfl rfl rfl, .of_eq ?_, ?_, ?_,
    ⟨.of_eq ?_, ⟨?_, ?_, ?_, ?_⟩, .of_eq ?_ ?_, ⟨?_, ?_, ?_, ?_⟩⟩, ⟨?_, ?_⟩⟩⟩
  all_goals simp

/-- The end of a `cc` multiplication (R179). -/
theorem State.productCodes_writes (s : State) (rd : RegNum) (p : BitVec 64) :
    ∃ t, s.productCodes rd p = .next t ∧
      WritesWithYCodes s t rd (lowWord p) (highWord p) (lowWord p).msb (lowWord p == 0) false false := by
  refine ⟨_, rfl, ⟨(onlyRegister_setReg s rd _).congr rfl rfl rfl rfl, ⟨?_, ?_, ?_, ?_⟩, ?_, ?_,
    ⟨⟨?_, ?_, ?_, ?_⟩, ⟨?_, ?_, ?_, ?_⟩, .of_eq ?_ ?_, ⟨?_, ?_, ?_, ?_⟩⟩, ⟨?_, ?_⟩⟩⟩
  all_goals simp [Psr.setCodes, codesMul]

/-- The end of a division with a divisor that is not 0 (R203, R205, R206). -/
theorem State.division_writes (s : State) (rd : RegNum) {d : Word} (hd : d ≠ 0) (v : Config.DivValue) :
    ∃ t, s.division rd d v = .next t ∧ WritesWithY s t rd v.quotient v.remainder := by
  rw [State.division, if_neg hd]
  refine ⟨_, rfl, ⟨(onlyRegister_setReg s rd _).congr rfl rfl rfl rfl, .of_eq ?_, ?_, ?_,
    ⟨.of_eq ?_, ⟨?_, ?_, ?_, ?_⟩, .of_eq ?_ ?_, ⟨?_, ?_, ?_, ?_⟩⟩, ⟨?_, ?_⟩⟩⟩
  all_goals simp

/-- The end of a `cc` division with a divisor that is not 0 (R204, R208, R206). -/
theorem State.divisionCodes_writes (s : State) (rd : RegNum) {d : Word} (hd : d ≠ 0) (v : Config.DivValue) :
    ∃ t, s.divisionCodes rd d v = .next t ∧ WritesWithYCodes s t rd v.quotient v.remainder v.n v.z v.v v.c := by
  rw [State.divisionCodes, if_neg hd]
  refine ⟨_, rfl, ⟨(onlyRegister_setReg s rd _).congr rfl rfl rfl rfl, ⟨?_, ?_, ?_, ?_⟩, ?_, ?_,
    ⟨⟨?_, ?_, ?_, ?_⟩, ⟨?_, ?_, ?_, ?_⟩, .of_eq ?_ ?_, ⟨?_, ?_, ?_, ?_⟩⟩, ⟨?_, ?_⟩⟩⟩
  all_goals simp [Psr.setCodes]

/-- An instruction that changes the program counters alone. -/
theorem MovesOnly.of_counters (s : State) (p q : Word) : MovesOnly s { s with pc := p, npc := q } :=
  ⟨.of_eq rfl rfl, .of_eq rfl, rfl, rfl, ⟨.of_eq rfl, ⟨rfl, rfl, rfl, rfl⟩, .of_eq rfl rfl, ⟨rfl, rfl, rfl, rfl⟩⟩⟩

end Sys2Proof.Machine
end

