-- ==== Sys2Proof/Laws/Run.lean ====
section
/-! SUPPORT. What the end of a run at the start of a step can be, and the steps of `run` by its cases. -/
namespace Sys2Proof.Machine

/-- The two ends at the start of a step (R454). -/
theorem State.ended_some {stopPc : Option Word} {s : State} {e : RunEnd} (h : s.ended stopPc = some e) :
    (e = .errorMode ∧ s.errorMode = true) ∨ (e = .stopAddress ∧ s.errorMode = false ∧ stopPc = some s.pc) := by
  unfold State.ended State.atStop at h
  cases he : s.errorMode <;> simp [he] at h
  · exact .inr ⟨h.2.symm, rfl, h.1⟩
  · exact .inl ⟨h.symm, rfl⟩

/-- No end at the start of a step (R454). -/
theorem State.ended_none {stopPc : Option Word} {s : State} :
    s.ended stopPc = none ↔ s.errorMode = false ∧ stopPc ≠ some s.pc := by
  unfold State.ended State.atStop
  cases s.errorMode <;> simp

/-- A run that has ended makes no step. -/
theorem run_of_ended {stopPc : Option Word} {s : State} {e : RunEnd} (h : s.ended stopPc = some e) (n : Nat) :
    run stopPc n s = { why := e, state := s } := by
  cases n <;> simp [run, h]

/-- A run that goes on with a next state (R454). -/
theorem run_of_next {stopPc : Option Word} {s t : State} (h : s.ended stopPc = none)
    (hb : s.beginTurn.atStop stopPc = false) (hs : step s = .next t) (n : Nat) :
    run stopPc (n + 1) s = run stopPc n t := by
  simp [run, h, hb, hs]

end Sys2Proof.Machine
end

