-- ==== Sys2Proof/Tests/Slice0.lean ====
section
/-! SUPPORT. Tests on fixed values. The words and the expected results are those of `95_test_vectors.md`, section 2 (the
paragraph is named at each test), or computed by hand from the rule named; then, for every obligation with hypotheses,
a concrete state and operands that meet them. -/
namespace Sys2Proof.Machine

/-! ### Well-formedness -/

/-- `sethi 0, %g0` has the word of `nop`: it is not well-formed (log entry 32). -/
theorem test_wellFormed_refuses_sethi_of_nop : (Instr.sethi 0 0).wellFormed = false := by decide

theorem test_wellFormed_admits :
    (Instr.sethi 0 1).wellFormed = true ∧ (Instr.sethi 1 0).wellFormed = true ∧ Instr.nop.wellFormed = true := by
  decide

/-! ### Decoding, every constructor -/

/-- The words of §2.1 of `95_test_vectors.md`. -/
theorem test_decode_loads :
    decode 0xC6004002 = .instr (.ld 3 1 (.reg 2)) ∧
    decode 0xC6084002 = .instr (.ldub 3 1 (.reg 2)) ∧
    decode 0xC6104002 = .instr (.lduh 3 1 (.reg 2)) ∧
    decode 0xC6484002 = .instr (.ldsb 3 1 (.reg 2)) ∧
    decode 0xC6504002 = .instr (.ldsh 3 1 (.reg 2)) := by
  decide

/-- The words of §2.2 of `95_test_vectors.md`. -/
theorem test_decode_stores :
    decode 0xC6204002 = .instr (.st 3 1 (.reg 2)) ∧
    decode 0xC6284002 = .instr (.stb 3 1 (.reg 2)) ∧
    decode 0xC6304002 = .instr (.sth 3 1 (.reg 2)) := by
  decide

/-- The words of §2.4 of `95_test_vectors.md`. -/
theorem test_decode_sethi_nop :
    decode 0x03048D15 = .instr (.sethi 1 0x48D15) ∧
    decode 0x01000000 = .instr .nop := by
  decide

/-- The words of §2.5 of `95_test_vectors.md`. -/
theorem test_decode_logic :
    decode 0x86084002 = .instr (.and 3 1 (.reg 2)) ∧
    decode 0x86884002 = .instr (.andcc 3 1 (.reg 2)) ∧
    decode 0x86104002 = .instr (.or 3 1 (.reg 2)) ∧
    decode 0x86904002 = .instr (.orcc 3 1 (.reg 2)) ∧
    decode 0x86184002 = .instr (.xor 3 1 (.reg 2)) ∧
    decode 0x86984002 = .instr (.xorcc 3 1 (.reg 2)) ∧
    decode 0x86284002 = .instr (.andn 3 1 (.reg 2)) ∧
    decode 0x86A84002 = .instr (.andncc 3 1 (.reg 2)) ∧
    decode 0x86304002 = .instr (.orn 3 1 (.reg 2)) ∧
    decode 0x86B04002 = .instr (.orncc 3 1 (.reg 2)) ∧
    decode 0x86384002 = .instr (.xnor 3 1 (.reg 2)) ∧
    decode 0x86B84002 = .instr (.xnorcc 3 1 (.reg 2)) := by
  decide

/-- The words of §2.5 of `95_test_vectors.md`. -/
theorem test_decode_arith :
    decode 0x86004002 = .instr (.add 3 1 (.reg 2)) ∧
    decode 0x86804002 = .instr (.addcc 3 1 (.reg 2)) ∧
    decode 0x86204002 = .instr (.sub 3 1 (.reg 2)) ∧
    decode 0x86A04002 = .instr (.subcc 3 1 (.reg 2)) := by
  decide

/-- The words of §2.6, §2.7 of `95_test_vectors.md`. -/
theorem test_decode_muldiv :
    decode 0x86504002 = .instr (.umul 3 1 (.reg 2)) ∧
    decode 0x86D04002 = .instr (.umulcc 3 1 (.reg 2)) ∧
    decode 0x86584002 = .instr (.smul 3 1 (.reg 2)) ∧
    decode 0x86D84002 = .instr (.smulcc 3 1 (.reg 2)) ∧
    decode 0x86704002 = .instr (.udiv 3 1 (.reg 2)) ∧
    decode 0x86F04002 = .instr (.udivcc 3 1 (.reg 2)) ∧
    decode 0x86784002 = .instr (.sdiv 3 1 (.reg 2)) ∧
    decode 0x86F84002 = .instr (.sdivcc 3 1 (.reg 2)) := by
  decide

/-- The words of §2.8 of `95_test_vectors.md`. -/
theorem test_decode_shift :
    decode 0x87286001 = .instr (.sll 3 1 (.imm 1)) ∧
    decode 0x8730601F = .instr (.srl 3 1 (.imm 31)) ∧
    decode 0x87386004 = .instr (.sra 3 1 (.imm 4)) := by
  decide

/-- The words of §2.9 of `95_test_vectors.md`. -/
theorem test_decode_branch :
    decode 0x00800004 = .instr (.bn false 4) ∧
    decode 0x02800004 = .instr (.be false 4) ∧
    decode 0x04800004 = .instr (.ble false 4) ∧
    decode 0x06800004 = .instr (.bl false 4) ∧
    decode 0x08800004 = .instr (.bleu false 4) ∧
    decode 0x0A800004 = .instr (.bcs false 4) ∧
    decode 0x0C800004 = .instr (.bneg false 4) ∧
    decode 0x0E800004 = .instr (.bvs false 4) ∧
    decode 0x10800004 = .instr (.ba false 4) ∧
    decode 0x12800004 = .instr (.bne false 4) ∧
    decode 0x14800004 = .instr (.bg false 4) ∧
    decode 0x16800004 = .instr (.bge false 4) ∧
    decode 0x18800004 = .instr (.bgu false 4) ∧
    decode 0x1A800004 = .instr (.bcc false 4) ∧
    decode 0x1C800004 = .instr (.bpos false 4) ∧
    decode 0x1E800004 = .instr (.bvc false 4) := by
  decide

/-- The words of §2.10, §2.11 of `95_test_vectors.md`. -/
theorem test_decode_transfer :
    decode 0x81C7E008 = .instr (.jmp 0 31 (.imm 8)) ∧
    decode 0x81CCA004 = .instr (.rett 18 (.imm 4)) ∧
    decode 0x40000006 = .instr (.call 6) ∧
    decode 0x9DE3BFC0 = .instr (.save 14 14 (.imm 0x1FC0)) ∧
    decode 0x91EE0019 = .instr (.restore 8 24 (.reg 25)) := by
  decide

/-- The words of §2.12 of `95_test_vectors.md`. -/
theorem test_decode_traps :
    decode 0x81D02005 = .instr (.tn 0 (.imm 5)) ∧
    decode 0x83D02005 = .instr (.te 0 (.imm 5)) ∧
    decode 0x85D02005 = .instr (.tle 0 (.imm 5)) ∧
    decode 0x87D02005 = .instr (.tl 0 (.imm 5)) ∧
    decode 0x89D02005 = .instr (.tleu 0 (.imm 5)) ∧
    decode 0x8BD02005 = .instr (.tcs 0 (.imm 5)) ∧
    decode 0x8DD02005 = .instr (.tneg 0 (.imm 5)) ∧
    decode 0x8FD02005 = .instr (.tvs 0 (.imm 5)) ∧
    decode 0x91D02005 = .instr (.ta 0 (.imm 5)) ∧
    decode 0x93D02005 = .instr (.tne 0 (.imm 5)) ∧
    decode 0x95D02005 = .instr (.tg 0 (.imm 5)) ∧
    decode 0x97D02005 = .instr (.tge 0 (.imm 5)) ∧
    decode 0x99D02005 = .instr (.tgu 0 (.imm 5)) ∧
    decode 0x9BD02005 = .instr (.tcc 0 (.imm 5)) ∧
    decode 0x9DD02005 = .instr (.tpos 0 (.imm 5)) ∧
    decode 0x9FD02005 = .instr (.tvc 0 (.imm 5)) := by
  decide

/-- The words of §2.13 of `95_test_vectors.md`. -/
theorem test_decode_stateRegs :
    decode 0x87400000 = .instr (.rdY 3) ∧
    decode 0x87404000 = .instr (.rdBase 3) ∧
    decode 0x87408000 = .instr (.rdLimite 3) ∧
    decode 0x87480000 = .instr (.rdPsr 3) ∧
    decode 0x87500000 = .instr (.rdWim 3) ∧
    decode 0x87580000 = .instr (.rdTbr 3) ∧
    decode 0x81804002 = .instr (.wrY 1 (.reg 2)) ∧
    decode 0x83804002 = .instr (.wrBase 1 (.reg 2)) ∧
    decode 0x85804002 = .instr (.wrLimite 1 (.reg 2)) ∧
    decode 0x81884002 = .instr (.wrPsr 1 (.reg 2)) ∧
    decode 0x81904002 = .instr (.wrWim 1 (.reg 2)) ∧
    decode 0x81984002 = .instr (.wrTbr 1 (.reg 2)) := by
  decide

/-- The other form of the second operand, a negative constant, an annul bit, ignored bits of a shift, the largest call. -/
theorem test_decode_other_forms :
    decode 0xC6007FFC = .instr (.ld 3 1 (.imm 0x1FFC)) ∧
    decode 0x86507FFF = .instr (.umul 3 1 (.imm 0x1FFF)) ∧
    decode 0x87287FE4 = .instr (.sll 3 1 (.imm 4)) ∧
    decode 0x87284002 = .instr (.sll 3 1 (.reg 2)) ∧
    decode 0x32800004 = .instr (.bne true 4) ∧
    decode 0x10BFFFFF = .instr (.ba false 0x3FFFFF) ∧
    decode 0x5FFFFFFF = .instr (.call 0x1FFFFFFF) ∧
    decode 0x91D04002 = .instr (.ta 1 (.reg 2)) := by
  decide

/-- §2.14. -/
theorem test_decode_unassigned :
    decode 0x00000000 = .unassigned ∧ decode 0xFFFFFFFF = .unassigned ∧ decode 0x80480000 = .unassigned ∧
    decode 0xC0180000 = .unassigned ∧ decode 0x01C00000 = .unassigned ∧ decode 0x81A00000 = .unassigned := by
  decide

/-- The numbering of the opcode table: bit 0 is the least significant bit of the first word. -/
theorem test_decodeTableWord : decodeTableWord 32 0x81C7E008 = some (.jmp 0 31 (.imm 8)) := by decide

/-! ### One step -/

/-- The start of section 2: `pc` = 0x40, TBR = 0x4000, these registers, this word at `pc`. -/
def testState (psr : Word) (regs : List (RegNum × Word)) (w : Word) : State :=
  (regs.foldl (fun (s : State) p => s.setReg p.1 p.2)
    { State.reset with pc := 0x40, npc := 0x44, psr := Psr.ofWord psr, tbr := { tba := 4, tt := 0 } }).withWordAtPc w

/-- A word in memory. -/
def State.putWord (s : State) (a w : Word) : State := { s with mem := s.mem.writeWord (wordIndex a) 0b1111 w }

/-- The user-mode start of §2.3: BASE = 0x1000, this LIMITE, 0x8091A2F3 at absolute 0x1100. -/
def userState (psr limite : Word) (regs : List (RegNum × Word)) (w : Word) : State :=
  ({ testState psr regs 0 with base := 0x1000, limite := limite }.putWord 0x1040 w).putWord 0x1100 0x8091A2F3

/-- Something of the state after an outcome. -/
def Result.seen {α : Type} (r : Result) (f : State → α) : Option α :=
  match r with
  | .next t => some (f t)
  | _ => none

/-- Register 3 and PSR after one step with x[1] = a and x[2] = b. -/
def outcome3 (psr w a b : Word) : Option (Word × Word) :=
  Result.seen (step (testState psr [(1, a), (2, b)] w)) fun t => (t.reg 3, t.psr.toWord)

/-- Register 3, Y and PSR after one step with x[1] = a, x[2] = b and this Y. -/
def outcomeY (y w a b : Word) : Option (Word × Word × Word) :=
  Result.seen (step { testState 0xA0 [(1, a), (2, b)] w with y := y }) fun t => (t.reg 3, t.y, t.psr.toWord)

/-- Register 3 and `pc` after one step with x[1] = a and 0x8091A2F3 at address 0x100. -/
def outcomeLoad (w a : Word) : Option (Word × Word) :=
  Result.seen (step ((testState 0xA0 [(1, a), (2, 0x104), (3, 7)] w).putWord 0x100 0x8091A2F3))
    fun t => (t.reg 3, t.pc)

/-- The word at 0x100 and `pc` after one step with x[1] = 0x100 and x[3] = 0x1234ABCD. -/
def outcomeStore (w : Word) : Option (Word × Word) :=
  Result.seen (step ((testState 0xA0 [(1, 0x100), (3, 0x1234ABCD)] w).putWord 0x100 0x8091A2F3))
    fun t => (t.mem.readWord (wordIndex 0x100), t.pc)

/-- `pc` and `npc` after one step. -/
def outcomeCounters (psr w : Word) (regs : List (RegNum × Word)) : Option (Word × Word) :=
  Result.seen (step (testState psr regs w)) fun t => (t.pc, t.npc)

/-- §2.1. -/
theorem test_loads :
    outcomeLoad 0xC6086001 0x100 = some (0xA2, 0x44) ∧ outcomeLoad 0xC6486002 0x100 = some (0xFFFFFF91, 0x44) ∧
    outcomeLoad 0xC6106002 0x100 = some (0x8091, 0x44) ∧ outcomeLoad 0xC6506000 0x100 = some (0xFFFFA2F3, 0x44) ∧
    outcomeLoad 0xC6007FFC 0x104 = some (0x8091A2F3, 0x44) ∧
    outcomeLoad 0xC6004002 0xFFFFFFFC = some (0x8091A2F3, 0x44) := by decide

/-- §2.1: a misaligned load traps and writes no register. -/
theorem test_loads_misaligned :
    outcomeLoad 0xC6006002 0x100 = some (7, 0x4070) ∧ outcomeLoad 0xC6106001 0x100 = some (7, 0x4070) ∧
    outcomeLoad 0xC6506003 0x100 = some (7, 0x4070) := by decide

/-- §2.2. -/
theorem test_stores :
    outcomeStore 0xC6286002 = some (0x80CDA2F3, 0x44) ∧ outcomeStore 0xC6286003 = some (0xCD91A2F3, 0x44) ∧
    outcomeStore 0xC6306002 = some (0xABCDA2F3, 0x44) ∧ outcomeStore 0xC6206000 = some (0x1234ABCD, 0x44) ∧
    outcomeStore 0xC6206001 = some (0x8091A2F3, 0x4070) := by decide

/-- §2.3: relocation, the limit, and the order of the checks. -/
theorem test_user_mode :
    Result.seen (step (userState 0x20 0x104 [] 0xC6002100)) (fun t => (t.reg 3, t.pc)) = some (0x8091A2F3, 0x44) ∧
    Result.seen (step (userState 0x20 0x104 [] 0xC6002104)) (fun t => (t.pc, t.psr.toWord)) = some (0x4090, 0x9F) ∧
    Result.seen (step (userState 0x20 0x104 [] 0xC6082103)) (fun t => (t.reg 3, t.pc)) = some (0x80, 0x44) ∧
    Result.seen (step (userState 0x20 0x104 [] 0xC6002106)) (fun t => t.pc) = some 0x4070 ∧
    Result.seen (step (userState 0x20 0x43 [] 0x01000000)) (fun t => t.pc) = some 0x4010 ∧
    Result.seen (step (userState 0x20 0x44 [] 0x01000000)) (fun t => t.pc) = some 0x44 := by decide

/-- §2.4. -/
theorem test_sethi :
    Result.seen (step (testState 0xA0 [(1, 0xFFFFFFFF)] 0x03048D15)) (fun t => t.reg 1) = some 0x12345400 ∧
    Result.seen (step (testState 0xA0 [] 0x013FFFFF)) (fun t => t.reg 0) = some 0 := by decide

/-- §2.5, the forms with condition codes. -/
theorem test_logic_codes :
    outcome3 0xA0 0x86884002 0xF0F0F0F0 0x0F0F0F0F = some (0, 0x004000A0) ∧
    outcome3 0xA0 0x86A84002 0xFFFF0000 0x0FF00000 = some (0xF00F0000, 0x008000A0) ∧
    outcome3 0xA0 0x86904002 0x80000000 1 = some (0x80000001, 0x008000A0) ∧
    outcome3 0xA0 0x86B04002 0 0xFFFFFFFF = some (0, 0x004000A0) ∧
    outcome3 0x00F000A0 0x86984002 0xAAAAAAAA 0xAAAAAAAA = some (0, 0x004000A0) ∧
    outcome3 0xA0 0x86B84002 0x12345678 0x12345678 = some (0xFFFFFFFF, 0x008000A0) := by decide

/-- §2.5, the forms that leave the condition codes. -/
theorem test_logic :
    outcome3 0x00F000A0 0x86084002 0xFF00FF00 0x0FF00FF0 = some (0x0F000F00, 0x00F000A0) ∧
    outcome3 0x00F000A0 0x86284002 0xFF00FF00 0x0FF00FF0 = some (0xF000F000, 0x00F000A0) ∧
    outcome3 0x00F000A0 0x86104002 0xFF00FF00 0x0FF00FF0 = some (0xFFF0FFF0, 0x00F000A0) ∧
    outcome3 0x00F000A0 0x86304002 0xFF00FF00 0x0FF00FF0 = some (0xFF0FFF0F, 0x00F000A0) ∧
    outcome3 0x00F000A0 0x86184002 0xFF00FF00 0x0FF00FF0 = some (0xF0F0F0F0, 0x00F000A0) ∧
    outcome3 0x00F000A0 0x86384002 0xFF00FF00 0x0FF00FF0 = some (0x0F0F0F0F, 0x00F000A0) := by decide

/-- §2.5. -/
theorem test_arith :
    outcome3 0x00F000A0 0x86004002 0xFFFFFFFF 2 = some (1, 0x00F000A0) ∧
    outcome3 0xA0 0x86207000 0 0 = some (0x1000, 0xA0) ∧
    outcome3 0xA0 0x86804002 0x7FFFFFFF 1 = some (0x80000000, 0x00A000A0) ∧
    outcome3 0xA0 0x86804002 0x80000000 0x80000000 = some (0, 0x007000A0) ∧
    outcome3 0xA0 0x86A04002 0x7FFFFFFF 0xFFFFFFFF = some (0x80000000, 0x00B000A0) ∧
    outcome3 0xA0 0x86A04002 3 5 = some (0xFFFFFFFE, 0x009000A0) := by decide

/-- §2.6. -/
theorem test_multiply :
    outcomeY 0 0x86504002 0xFFFFFFFF 0xFFFFFFFF = some (1, 0xFFFFFFFE, 0xA0) ∧
    outcomeY 0 0x86507FFF 3 0 = some (0x5FFD, 0, 0xA0) ∧
    outcomeY 0 0x86587FFF 3 0 = some (0xFFFFFFFD, 0xFFFFFFFF, 0xA0) ∧
    outcomeY 0 0x86D04002 0x80000000 2 = some (0, 1, 0x004000A0) ∧
    outcomeY 0 0x86D84002 0xFFFFFFFE 3 = some (0xFFFFFFFA, 0xFFFFFFFF, 0x008000A0) := by decide

/-- §2.7. -/
theorem test_divide :
    outcomeY 1 0x86704002 5 0x10 = some (0x10000000, 5, 0xA0) ∧
    outcomeY 0xFFFFFFFF 0x86784002 0xFFFFFF9C 7 = some (0xFFFFFFF2, 0xFFFFFFFE, 0xA0) ∧
    outcomeY 0 0x86F04002 0x80000000 1 = some (0x80000000, 0, 0x008000A0) ∧
    outcomeY 0xFFFFFFFF 0x86F84002 0xFFFFFFFF 1 = some (0xFFFFFFFF, 0, 0x008000A0) ∧
    outcomeY 0 0x86787FFF 0x64 0 = some (0xFFFFFF9C, 0, 0xA0) ∧
    outcomeY 0 0x86704002 5 0 = some (0, 0, 0xDF) := by decide

/-- §2.8. -/
theorem test_shift :
    outcome3 0xA0 0x87284002 1 0x21 = some (2, 0xA0) ∧ outcome3 0xA0 0x8728601F 1 0 = some (0x80000000, 0xA0) ∧
    outcome3 0xA0 0x87304002 0x80000000 0xFFFFFFFF = some (1, 0xA0) ∧
    outcome3 0xA0 0x87386001 0x80000001 0 = some (0xC0000000, 0xA0) ∧
    outcome3 0xA0 0x87287FE4 1 0 = some (0x10, 0xA0) := by decide

/-- §2.9: the table of conditions, by the sixteen branch words with disp22 = 4 at each setting of N Z V C. -/
def takenBranches (psr : Word) : List Nat :=
  (List.range 16).filter fun c => outcomeCounters psr (BitVec.ofNat 32 (0x00800004 + c * 0x02000000)) [] = some (0x44, 0x54)

theorem test_branch_conditions :
    takenBranches 0x000000A0 = [8, 9, 10, 11, 12, 13, 14, 15] ∧
    takenBranches 0x004000A0 = [1, 2, 4, 8, 11, 13, 14, 15] ∧
    takenBranches 0x008000A0 = [2, 3, 6, 8, 9, 12, 13, 15] ∧
    takenBranches 0x002000A0 = [2, 3, 7, 8, 9, 12, 13, 14] ∧
    takenBranches 0x001000A0 = [4, 5, 8, 9, 10, 11, 14, 15] := by decide

/-- §2.9: delay, annul, and displacements. -/
theorem test_branch_counters :
    outcomeCounters 0x004000A0 0x12800004 [] = some (0x44, 0x48) ∧
    outcomeCounters 0x004000A0 0x32800004 [] = some (0x48, 0x4C) ∧
    outcomeCounters 0xA0 0x32800004 [] = some (0x44, 0x54) ∧ outcomeCounters 0xA0 0x30800004 [] = some (0x44, 0x54) ∧
    outcomeCounters 0xA0 0x20800004 [] = some (0x48, 0x4C) ∧ outcomeCounters 0xA0 0x10BFFFFF [] = some (0x44, 0x40) ∧
    outcomeCounters 0xA0 0x10A00000 [] = some (0x44, 0xFF800044) := by decide

/-- §2.10. -/
theorem test_call_and_jump :
    Result.seen (step (testState 0xA0 [] 0x60000000)) (fun t => (t.reg 15, t.npc)) = some (0x40, 0x80000044) ∧
    Result.seen (step (testState 0xA0 [(1, 0x2000), (2, 0x10)] 0x87C04002)) (fun t => (t.reg 3, t.npc)) =
      some (0x2010, 0x2010) ∧
    Result.seen (step (testState 0xA0 [(1, 0x2000)] 0x83C06004)) (fun t => (t.reg 1, t.npc)) = some (0x2004, 0x2004) ∧
    Result.seen (step (testState 0xA0 [(1, 0x2000), (3, 0xDEAD)] 0x87C06002)) (fun t => (t.reg 3, t.pc)) =
      some (0xDEAD, 0x4070) := by decide

/-- §2.10: `rett 0, %l2`; to user mode by hand from R264, in the window of the third row. -/
theorem test_rett :
    Result.seen (step { testState 0xE3 [(18, 0x504)] 0x81CCA000 with npc := 0x500 })
      (fun t => (t.psr.toWord, t.pc, t.npc)) = some (0xE4, 0x500, 0x504) ∧
    Result.seen (step { testState 0x83 [(18, 0x504)] 0x81CCA000 with npc := 0x500 })
      (fun t => (t.psr.toWord, t.pc, t.npc)) = some (0x24, 0x500, 0x504) := by decide

/-- §2.10: `rett` to a misaligned address with traps disabled, and in user mode. -/
theorem test_rett_traps :
    Result.seen (step { testState 0xC3 [(18, 0x506)] 0x81CCA000 with npc := 0x500 })
      (fun t => (t.errorMode, t.psr.toWord, t.pc)) = some (true, 0xC3, 0x40) ∧
    Result.seen (step { testState 0x20 [] 0x81CCA000 with limite := 0x1000 }) (fun t => (t.psr.toWord, t.pc)) =
      some (0x9F, 0x4030) := by decide

/-- §2.11. -/
theorem test_save :
    Result.seen (step (testState 0xA5 [(14, 0x1000)] 0x9DE3BFC0)) (fun t => (t.psr.toWord, t.reg 14, t.reg 30)) =
      some (0xA4, 0xFC0, 0x1000) := by decide

/-- §2.11. -/
theorem test_save_overflow :
    Result.seen (step { testState 0xA5 [(14, 0x1000)] 0x9DE3BFC0 with wim := 0x10 })
      (fun t => (t.psr.toWord, t.pc, t.reg 17)) = some (0xC4, 0x4050, 0x40) := by decide

/-- §2.11. -/
theorem test_restore :
    Result.seen (step (testState 0xA4 [(24, 5), (25, 6)] 0x91EE0019)) (fun t => (t.psr.toWord, t.reg 8)) =
      some (0xA5, 0xB) ∧
    Result.seen (step { testState 0xBF [] 0x81E82000 with wim := 1 }) (fun t => (t.psr.toWord, t.pc)) =
      some (0xDE, 0x4060) := by decide

/-- §2.12. -/
theorem test_software_traps :
    Result.seen (step (testState 0xA0 [] 0x91D06003)) (fun t => (t.pc, t.npc, t.psr.toWord)) =
      some (0x4830, 0x4834, 0xDF) ∧
    outcomeCounters 0xA0 0x91D04002 [(1, 0xFFFFFFFF), (2, 2)] = some (0x4810, 0x4814) ∧
    outcomeCounters 0xA0 0x81D06003 [] = some (0x44, 0x48) ∧
    outcome3 0x004000A0 0x83D06001 0 0 = some (0, 0x004000DF) ∧
    Result.seen (step (testState 0x80 [] 0x91D02003)) (fun t => (t.errorMode, t.pc, t.psr.toWord)) =
      some (true, 0x40, 0x80) := by decide

/-- The saved counters, from window 1 (R420). -/
theorem test_trap_saves :
    Result.seen (step (testState 0xA1 [] 0x91D06003)) (fun t => (t.psr.toWord, t.reg 17, t.reg 18)) =
      some (0xC0, 0x40, 0x44) := by decide

/-- The state of the reads of §2.13. -/
def readState (psr w : Word) : State :=
  { testState psr [] w with y := 0x11, wim := 0x22, tbr := { tba := 4, tt := 0x55 }, base := 0x100, limite := 0x200 }

/-- §2.13. -/
theorem test_reads :
    [0x87400000, 0x87404000, 0x87408000, 0x87480000, 0x87500000, 0x87580000].map
        (fun w => Result.seen (step (readState 0x00F000A5 w)) fun t => t.reg 3) =
      [some 0x11, some 0x100, some 0x200, some 0x00F000A5, some 0x22, some 0x4550] := by decide

/-- §2.13, with the written register and its neighbours. -/
theorem test_writes :
    [0x81804002, 0x83804002, 0x85804002, 0x81884002, 0x81904002, 0x81984002].map
        (fun w => Result.seen (step (testState 0x80 [(1, 0xFFFF00FF), (2, 0x0F0FFFFF)] w))
          fun t => [t.y, t.base, t.limite, t.psr.toWord, t.wim, t.tbr.toWord]) =
      [some [0xF0F0FF00, 0, 0, 0x80, 0, 0x4000], some [0, 0xF0F0FF00, 0, 0x80, 0, 0x4000],
        some [0, 0, 0xF0F0FF00, 0x80, 0, 0x4000], some [0, 0, 0, 0x00F00F00, 0, 0x4000],
        some [0, 0, 0, 0x80, 0xF0F0FF00, 0x4000], some [0, 0, 0, 0x80, 0, 0xF0F0F000]] := by decide

/-- §2.14: an illegal instruction, and the same with traps disabled. -/
theorem test_illegal :
    outcomeCounters 0xA0 0x80480000 [] = some (0x4020, 0x4024) ∧
    Result.seen (step (testState 0x80 [] 0x80480000)) (fun t => (t.errorMode, t.pc)) = some (true, 0x40) := by decide

/-- §2.14: interrupts; bit n of the mask of §2.14 is bit n-1 of `irq`. -/
theorem test_interrupts :
    [(0x0A0, 0x0002), (0x0A0, 0x8002), (0xFA0, 0xFFFE), (0xEA0, 0xFFFE), (0xEA0, 0x7FFE), (0x080, 0xFFFE),
        (0x3A0, 0x0008), (0x3A0, 0x0010)].map
        (fun (p : Nat × Nat) =>
          Result.seen (step { testState (BitVec.ofNat 32 p.1) [] 0x01000000 with irq := BitVec.ofNat 15 (p.2 / 2) })
            fun t => (t.pc, t.psr.toWord)) =
      [some (0x4110, 0xDF), some (0x41F0, 0xDF), some (0x44, 0xFA0), some (0x41F0, 0xEDF), some (0x44, 0xEA0),
        some (0x44, 0x80), some (0x44, 0x3A0), some (0x4140, 0x3DF)] := by decide

/-- The first step after reset with a word placed. -/
theorem test_withFetchWord :
    Result.seen (step (State.reset.withFetchWord 32 0x03048D15)) (fun t => (t.reg 1, t.pc, t.npc)) =
      some (0x12345400, 4, 8) := by decide

/-! ### The hypotheses of the obligations can be met

One theorem for each obligation that has hypotheses: a concrete state and operands that meet all of them together, for
each clause, at the boundary values of its ranges. -/

/-- What holds of the next state of an outcome. -/
def Result.meets (r : Result) (p : State → Bool) : Bool :=
  match r with
  | .next t => p t
  | _ => false

/-- A machine with memory at 0 to 0x7FFF, no memory behind 0x8000 to 0xFFFF, a device at 0x10000 to 0x1FFFF, a window
that answers ERR at 0x20000 to 0x2FFFF, and nobody above. -/
def board : Platform :=
  { memFirst := 0, memLast := 0xFFFF, memSize := 0x8000, image := [],
    devices := [{ first := 0x10000, last := 0x1FFFF, acks := true },
      { first := 0x20000, last := 0x2FFFF, acks := false }],
    resetPc := 0x100, resetPsr := 0xA0 }

/-- A supervisor state on that machine, with x[1] = a. -/
def onBoard (a : Word) : State := { testState 0xA0 [(1, a)] 0 with platform := board }

theorem test_witness_DecodeInvertsEncode :
    (Instr.sethi 0 0x3FFFFF).wellFormed = true ∧ (Instr.sethi 31 0).wellFormed = true ∧
      (Instr.st 31 0 (.imm 0x1000)).wellFormed = true := by decide

theorem test_witness_EncodeInvertsDecode :
    decode 0x87287FE4 = .instr (.sll 3 1 (.imm 4)) ∧ decode 0x87284002 = .instr (.sll 3 1 (.reg 2)) := by decide

/-- Each clause of the statement has a word, and words on both sides of the selector's bound. -/
theorem test_witness_UnassignedWords :
    decode 0x01C00000 = .unassigned ∧ decode 0x80480000 = .unassigned ∧ decode 0x8740C000 = .unassigned ∧
      decode 0x87804002 = .unassigned ∧ decode 0xC0180000 = .unassigned ∧
      decode 0x87408000 = .instr (.rdLimite 3) ∧ decode 0x85804002 = .instr (.wrLimite 1 (.reg 2)) := by decide

/-- Each clause of the statement has a word. -/
theorem test_witness_ReservedFieldWords :
    decode 0xC6004022 = .reservedField ∧ decode 0x87400001 = .reservedField ∧ decode 0x87484000 = .reservedField ∧
      decode 0x86005002 = .reservedField ∧ decode 0x87884002 = .reservedField ∧ decode 0xB1D02003 = .reservedField := by
  decide

theorem test_witness_WindowsOverlap : (7 : Nat) < 8 ∧ (31 : BitVec 5) ≠ 0 := by decide

theorem test_witness_ConditionTable : Cond.always.code = Cond.never.code ^^^ 0b1000 := by decide

theorem test_witness_LogicalResultsWithCodes :
    (0 : Word) = (testState 0xA0 [(1, 0xF0F0F0F0)] 0).reg 1 &&& (testState 0xA0 [(1, 0xF0F0F0F0)] 0).op2 (.reg 2) ∧
      (0xF0F0F0F0 : Word) =
        (testState 0xA0 [(1, 0xF0F0F0F0)] 0).reg 1 ||| (testState 0xA0 [(1, 0xF0F0F0F0)] 0).op2 (.reg 2) := by decide

theorem test_witness_AddAndSubtractWithCodes :
    (0x80000000 : Word) = (testState 0xA0 [(1, 0x80000000)] 0).reg 1 ∧
      (0xFFFFFFFF : Word) = (testState 0xA0 [(1, 0x80000000)] 0).op2 (.imm 0x1FFF) := by decide

/-- A divisor just above Y, in a register and as a constant. -/
theorem test_witness_UnsignedDivision :
    (2 = { testState 0xA0 [(2, 2)] 0 with y := 1 }.unsignedOperand (.reg 2) ∧ (1 : Word).toNat < 2) ∧
      8191 = (testState 0xA0 [] 0).unsignedOperand (.imm 0x1FFF) ∧ (0 : Word).toNat < 8191 := by decide

/-- -100 divided by 7: a negative remainder. -/
theorem test_witness_SignedDivision :
    (7 : Int) = { testState 0xA0 [(1, 0xFFFFFF9C), (2, 7)] 0 with y := 0xFFFFFFFF }.signedOperand (.reg 2) ∧
      (0xFFFFFFFF : Word).toInt * 2 ^ 32 +
        (({ testState 0xA0 [(1, 0xFFFFFF9C), (2, 7)] 0 with y := 0xFFFFFFFF } : State).reg 1).toNat = (-14) * 7 + (-2) ∧
      (-2 : Int).natAbs < (7 : Int).natAbs ∧ ((-2 : Int) = 0 ∨ ((-2 : Int) < 0 ↔ (0xFFFFFFFF : Word).toInt < 0)) ∧
      (-2 ^ 31 : Int) ≤ -14 ∧ (-14 : Int) ≤ 2 ^ 31 - 1 := by decide

/-- The largest and the smallest quotient, with divisor 1 and remainder 0. -/
theorem test_witness_SignedDivision_bounds :
    (0 : Word).toInt * 2 ^ 32 + ((0x7FFFFFFF : Word).toNat : Int) = (2 ^ 31 - 1) * 1 + 0 ∧
      (0xFFFFFFFF : Word).toInt * 2 ^ 32 + ((0x80000000 : Word).toNat : Int) = (-2 ^ 31) * 1 + 0 ∧
      (1 : Int) = (testState 0xA0 [] 0).signedOperand (.imm 1) ∧ (0 : Int).natAbs < (1 : Int).natAbs := by decide

/-- The three overflows §2.7 names, the smallest of each kind. -/
theorem test_witness_DivisionOverflow :
    ({ testState 0xA0 [(2, 2)] 0 with y := 2 }.op2Unsigned (.reg 2) ≠ 0 ∧
        ({ testState 0xA0 [(2, 2)] 0 with y := 2 }.op2Unsigned (.reg 2)).toNat ≤ (2 : Word).toNat) ∧
      (testState 0xA0 [] 0).op2 (.imm 1) ≠ 0 ∧
      2 ^ 31 - 1 < ((0 : Word) ++ (0x80000000 : Word)).toInt.tdiv ((testState 0xA0 [] 0).op2 (.imm 1)).toInt ∧
      ((0xFFFFFFFF : Word) ++ (0x7FFFFFFF : Word)).toInt.tdiv ((testState 0xA0 [] 0).op2 (.imm 1)).toInt < -2 ^ 31 := by
  decide

theorem test_witness_DivisionOverflow_value :
    ∃ free, free = Config.divOverflow true ((0 : Word) ++ (0x80000000 : Word)) 1 := ⟨_, rfl⟩

theorem test_witness_DivisionByZeroTraps :
    (testState 0xA0 [] 0).op2Unsigned (.imm 0) = 0 ∧ (testState 0xA0 [] 0).op2 (.reg 2) = 0 := by decide

theorem test_witness_Shifts :
    31 = (testState 0xA0 [(2, 0xFFFFFFFF)] 0).countOperand (.reg 2) ∧
      0 = (testState 0xA0 [(2, 32)] 0).countOperand (.reg 2) ∧
      31 = (testState 0xA0 [] 0).countOperand (.imm 31) := by decide

theorem test_witness_SethiResult :
    ¬ ((0 : RegNum) = 0 ∧ (1 : BitVec 22) = 0) ∧ ¬ ((1 : RegNum) = 0 ∧ (0 : BitVec 22) = 0) := by decide

theorem test_witness_Branches :
    condTrue .e (testState 0x004000A0 [] 0).psr = true ∧ condTrue .e (testState 0xA0 [] 0).psr = false := by decide

theorem test_witness_JumpResult :
    (0x2004 : Word) = (testState 0xA0 [(1, 0x2000)] 0).reg 1 + (testState 0xA0 [(1, 0x2000)] 0).op2 (.imm 4) ∧
      (0x2004 : Word).toNat % 4 = 0 := by decide

theorem test_witness_MisalignedTargetsTrap :
    ((testState 0xA0 [(1, 0x2000)] 0).reg 1 + (testState 0xA0 [(1, 0x2000)] 0).op2 (.imm 3)).toNat % 4 ≠ 0 ∧
      (testState 0xA0 [(1, 0x2000)] 0).psr.s = true := by decide

theorem test_witness_ReturnFromTrapResult :
    (testState 0x9F [] 0).psr.s = true ∧
      (0xFFFFFFFC : Word) = (testState 0x9F [] 0).reg 0 + (testState 0x9F [] 0).op2 (.imm 0x1FFC) ∧
      (0xFFFFFFFC : Word).toNat % 4 = 0 := by decide

/-- From window 0 to window 31, with WIM bit 31 clear and set. -/
theorem test_witness_SaveResult :
    31 = ((testState 0xA0 [] 0).psr.cwp.toNat + 31) % 32 ∧ (testState 0xA0 [] 0).wim.getLsbD 31 = false ∧
      { testState 0xA0 [] 0 with wim := 0x80000000 }.wim.getLsbD 31 = true := by decide

/-- From window 31 to window 0, with WIM bit 0 clear and set. -/
theorem test_witness_RestoreResult :
    0 = ((testState 0xBF [] 0).psr.cwp.toNat + 1) % 32 ∧ (testState 0xBF [] 0).wim.getLsbD 0 = false ∧
      { testState 0xBF [] 0 with wim := 1 }.wim.getLsbD 0 = true := by decide

theorem test_witness_SoftwareTrapTaken :
    condTrue .always (testState 0x20 [] 0).psr = true ∧ condTrue .cs (testState 0x00100020 [] 0).psr = true := by decide

theorem test_witness_SoftwareTrapNotTaken :
    condTrue .never (testState 0xA0 [] 0).psr = false ∧ condTrue .cs (testState 0xA0 [] 0).psr = false := by decide

theorem test_witness_StateRegisterReads : (testState 0xA0 [] 0).psr.s = true := by decide

theorem test_witness_StateRegisterWrites :
    (0xF0F0FF00 : Word) = (testState 0x80 [(1, 0xFFFF00FF), (2, 0x0F0FFFFF)] 0).reg 1 ^^^
        (testState 0x80 [(1, 0xFFFF00FF), (2, 0x0F0FFFFF)] 0).op2 (.reg 2) ∧
      (testState 0x80 [(1, 0xFFFF00FF), (2, 0x0F0FFFFF)] 0).psr.s = true := by decide

/-- Every field 1, and a value that is a PSR's word. -/
theorem test_witness_PsrWrite :
    (0xFFFFFFFF : Word) = (testState 0x80 [] 0).reg 0 ^^^ (testState 0x80 [] 0).op2 (.imm 0x1FFF) ∧
      (testState 0x80 [] 0).psr.s = true ∧ (0xA0 : Word) = (testState 0xA0 [] 0).psr.toWord ∧
      (0xA0 : Word) = (testState 0x80 [] 0).reg 0 ^^^ (testState 0x80 [] 0).op2 (.imm 0xA0) := by decide

theorem test_witness_PrivilegedInstructionsTrap :
    isPrivileged (.rett 18 (.imm 0)) = true ∧ isPrivileged (.wrLimite 1 (.reg 2)) = true ∧
      (testState 0x20 [] 0).psr.s = false := by decide

/-- Supervisor mode at the top of the address space. -/
theorem test_witness_LoadsFromMemory :
    (0xFFFFFFFC : Word) = (testState 0xA0 [] 0).reg 0 + (testState 0xA0 [] 0).op2 (.imm 0x1FFC) ∧
      (testState 0xA0 [] 0).baseUsable = true ∧ (testState 0xA0 [] 0).answers 0xFFFFFFFC = .memory ∧
      (0xFFFFFFFC : Word).toNat % 4 = 0 ∧ (testState 0xA0 [] 0).permitted 0xFFFFFFFC 4 = true := by decide

/-- User mode at the last word, halfword and byte below LIMITE. -/
theorem test_witness_LoadsFromMemory_user :
    (0x100 : Word) = (userState 0x20 0x104 [] 0).reg 0 + (userState 0x20 0x104 [] 0).op2 (.imm 0x100) ∧
      (userState 0x20 0x104 [] 0).baseUsable = true ∧ (userState 0x20 0x104 [] 0).answers 0x100 = .memory ∧
      (userState 0x20 0x104 [] 0).permitted 0x100 4 = true ∧ (userState 0x20 0x104 [] 0).permitted 0x102 2 = true ∧
      (userState 0x20 0x104 [] 0).permitted 0x103 1 = true ∧ (0x102 : Word).toNat % 2 = 0 := by decide

theorem test_witness_StoresToMemory :
    (0x103 : Word) = (userState 0x20 0x104 [] 0).reg 0 + (userState 0x20 0x104 [] 0).op2 (.imm 0x103) ∧
      (userState 0x20 0x104 [] 0).baseUsable = true ∧ (userState 0x20 0x104 [] 0).answers 0x103 = .memory ∧
      (0x103 : Word).toNat % 1 = 0 ∧ (userState 0x20 0x104 [] 0).permitted 0x103 1 = true ∧
      (0x102 : Word).toNat % 2 = 0 ∧ (userState 0x20 0x104 [] 0).permitted 0x102 2 = true ∧
      (0x100 : Word).toNat % 4 = 0 ∧ (userState 0x20 0x104 [] 0).permitted 0x100 4 = true := by decide

/-- The first and the last word of the device's range. -/
theorem test_witness_DeviceAccesses :
    (0x10000 : Word) = (onBoard 0x10000).reg 1 + (onBoard 0x10000).op2 (.imm 0) ∧
      (onBoard 0x10000).baseUsable = true ∧ (onBoard 0x10000).answers 0x10000 = .device ∧
      (onBoard 0x10000).answers 0x1FFFC = .device ∧ (onBoard 0x10000).permitted 0x10000 4 = true ∧
      (0x10000 : Word).toNat % Size.word.bytes = 0 ∧ (onBoard 0x10000).permitted 0x1FFFC Size.word.bytes = true := by
  decide

theorem test_witness_DeviceAccesses_value :
    ∃ driven, driven = Config.deviceWord (onBoard 0x10000).deviceLog (wordIndex 0x10000) := ⟨_, rfl⟩

/-- A misaligned address; an address one byte too far; a misaligned BASE; a class of addresses that answers ERR; and
nobody. -/
theorem test_witness_DataAccessStops :
    (0x101 : Word) = (testState 0xA0 [(1, 0x101)] 0).reg 1 + (testState 0xA0 [(1, 0x101)] 0).op2 (.imm 0) ∧
      (0x101 : Word).toNat % 4 ≠ 0 ∧
      ((0x100 : Word).toNat % 4 = 0 ∧ (userState 0x20 0x103 [] 0).psr.s = false ∧
        (userState 0x20 0x103 [] 0).limite.toNat < (0x100 : Word).toNat + 4) ∧
      ((0x100 : Word).toNat + 4 ≤ (userState 0x20 0x104 [] 0).limite.toNat ∧
        { userState 0x20 0x104 [] 0 with base := 0x1001 }.base.toNat % 4 ≠ 0) ∧
      ((onBoard 0x8000).permitted 0x8000 4 = true ∧ (onBoard 0x8000).baseUsable = true ∧
        (onBoard 0x8000).answers 0x8000 = .error ∧ (onBoard 0x8000).answers 0x20000 = .error) ∧
      (onBoard 0x30000).answers 0x30000 = .nobody := by decide

/-- A word stored at 0x44, where the next instruction is; the last byte of it. -/
theorem test_witness_StoredWordIsSeen :
    Result.meets (exec (.st 3 0 (.imm 0x44)) (testState 0xA0 [] 0))
        (fun t => t.reg 0 + t.op2 (.imm 0x47) ==
          (testState 0xA0 [] 0).reg 0 + (testState 0xA0 [] 0).op2 (.imm 0x44) + BitVec.ofNat 32 3) = true ∧
      ((testState 0xA0 [] 0).reg 0 + (testState 0xA0 [] 0).op2 (.imm 0x44)).toNat % 4 = 0 ∧
      (testState 0xA0 [] 0).permitted 0x44 4 = true ∧ (testState 0xA0 [] 0).baseUsable = true ∧
      (testState 0xA0 [] 0).answers 0x44 = .memory ∧ (testState 0xA0 [] 0).npc = 0x44 := by decide

theorem test_witness_HandlerReturns :
    (testState 0x20 [] 0).psr.et = true ∧ (testState 0x20 [] 0).pc.toNat % 4 = 0 ∧
      (testState 0x20 [] 0).npc.toNat % 4 = 0 := by decide

/-- Levels 1 and 15, and a line that is not above PIL. -/
theorem test_witness_InterruptSelection :
    { testState 0xA0 [] 0 with irq := 1 }.acceptedInterrupt = some 1 ∧
      { testState 0xEA0 [] 0 with irq := 0x7FFF }.acceptedInterrupt = some 15 ∧
      { testState 0xFA0 [] 0 with irq := 0x7FFF }.acceptedInterrupt = none := by decide

/-- The line rises in the turn itself, and another master writes in it. -/
def interruptedState : State :=
  { testState 0xA0 [] 0x01000000 with
    inputs := [{ before := [.irqLines 0x4000], midway := [{ word := 0x40, bsel := 0b1111, data := 5 }] }] }

theorem test_witness_StepTakesInterrupt :
    interruptedState.beginTurn.errorMode = false ∧ interruptedState.beginTurn.acceptedInterrupt = some 15 ∧
      Result.seen (step interruptedState) (fun t => (t.pc, t.mem.readWord 0x40)) = some (0x41F0, 5) := by decide

theorem test_witness_StepRunsInstruction :
    (testState 0xA0 [] 0x86004002).inputs = [] ∧ (testState 0xA0 [] 0x86004002).errorMode = false ∧
      (testState 0xA0 [] 0x86004002).acceptedInterrupt = none ∧ (testState 0xA0 [] 0x86004002).pc.toNat % 4 = 0 ∧
      (testState 0xA0 [] 0x86004002).permitted 0x40 4 = true ∧ (testState 0xA0 [] 0x86004002).baseUsable = true ∧
      (testState 0xA0 [] 0x86004002).answers 0x40 = .memory ∧
      0x40 = ((testState 0xA0 [] 0x86004002).absolute 0x40).toNat ∧
      decodeBytes [Memory.read (testState 0xA0 [] 0x86004002).mem 0x40,
          Memory.read (testState 0xA0 [] 0x86004002).mem 0x41, Memory.read (testState 0xA0 [] 0x86004002).mem 0x42,
          Memory.read (testState 0xA0 [] 0x86004002).mem 0x43] =
        some (.instr (.add 3 1 (.reg 2)), []) := by decide

/-- A state whose turn resets nothing, writes the word at `pc` before the fetch, and data after it. -/
def turnState : State :=
  { testState 0xA0 [] 0 with
    inputs := [{ before := [.masterWrite { word := 0x10, bsel := 0b1111, data := 0x86004002 }],
                 midway := [{ word := 0x40, bsel := 0b1111, data := 5 }] }] }

theorem test_witness_StepRunsInstructionInTurn :
    turnState.beginTurn.errorMode = false ∧ turnState.beginTurn.acceptedInterrupt = none ∧
      turnState.beginTurn.permitted turnState.beginTurn.pc 4 = true ∧ turnState.beginTurn.baseUsable = true ∧
      turnState.beginTurn.answers turnState.beginTurn.pc = .memory ∧
      decode (Memory.readWord turnState.beginTurn.mem (wordIndex (turnState.beginTurn.absolute turnState.beginTurn.pc))) =
        .instr (.add 3 1 (.reg 2)) := by decide

theorem test_witness_StepOnWordsWithoutInstruction :
    (testState 0xA0 [] 0xFFFFFFFF).acceptedInterrupt = none ∧ (testState 0xA0 [] 0xFFFFFFFF).permitted 0x40 4 = true ∧
      (testState 0xA0 [] 0xFFFFFFFF).answers 0x40 = .memory ∧
      decode (Memory.readWord (testState 0xA0 [] 0xFFFFFFFF).mem (wordIndex 0x40)) = .unassigned ∧
      decode (Memory.readWord (testState 0xA0 [] 0x87400001).mem (wordIndex 0x40)) = .reservedField := by decide

/-- LIMITE one byte short, a misaligned BASE, ERR, and nobody. -/
theorem test_witness_FetchStops :
    ((userState 0x20 0x43 [] 0).psr.s = false ∧
        (userState 0x20 0x43 [] 0).limite.toNat < (userState 0x20 0x43 [] 0).pc.toNat + 4) ∧
      ((userState 0x20 0x44 [] 0).pc.toNat + 4 ≤ (userState 0x20 0x44 [] 0).limite.toNat ∧
        { userState 0x20 0x44 [] 0 with base := 2 }.base.toNat % 4 ≠ 0) ∧
      { onBoard 0 with pc := 0xFFFC }.answers 0xFFFC = .error ∧
      { onBoard 0 with pc := 0x30000 }.answers 0x30000 = .nobody ∧
      (onBoard 0).permitted 0xFFFC 4 = true ∧ (onBoard 0).baseUsable = true ∧ (onBoard 0).inputs = [] ∧
      (onBoard 0).acceptedInterrupt = none := by decide

/-- A turn with a reset in it, and a `nop` loaded at 0 after it, ends error mode. -/
theorem test_witness_ErrorModeLastsUntilReset :
    { testState 0xA0 [] 0 with errorMode := true }.errorMode = true ∧
      Result.meets
        (step { testState 0xA0 [] 0 with
                errorMode := true,
                inputs := [{ before := [.reset, .masterWrite { word := 0, bsel := 0b1111, data := 0x01000000 }],
                             midway := [] }] })
        (fun t => t.errorMode == false) = true ∧
      ([{ before := [], midway := [] }] : List EnvTurn) ≠ [] := by decide

/-- The RESET input on a board whose parameters are not the defaults. -/
theorem test_witness_ResetState :
    (onBoard 5).platform = board ∧ ((onBoard 5).event .reset).reg 1 = 0 ∧ ((onBoard 5).event .reset).pc = 0x100 ∧
      ((onBoard 5).event .reset).psr.toWord = 0xA0 := by decide

theorem test_invariant : (testState 0xA0 [(1, 5)] 0x01000000).Inv :=
  ⟨by decide, by decide, by decide, by decide, by decide, by decide⟩

theorem test_witness_StepKeepsInvariant :
    (testState 0xA0 [(1, 5)] 0x01000000).Inv ∧
      Result.meets (step (testState 0xA0 [(1, 5)] 0x01000000)) (fun t => t.pc == 0x44) = true :=
  ⟨test_invariant, by decide⟩

/-- An instruction after which user mode lasts, and one that traps. -/
theorem test_witness_UserModeCannotChangeProtection :
    (testState 0x20 [] 0).psr.s = false ∧ (testState 0x20 [] 0).psr.et = true ∧
      Result.meets (exec (.add 3 1 (.reg 2)) (testState 0x20 [] 0)) (fun t => t.psr.s == false) = true ∧
      Result.meets (exec (.wrBase 1 (.reg 2)) (testState 0x20 [] 0)) (fun t => t.psr.s) = true := by decide

/-- The last byte below LIMITE changes. -/
theorem test_witness_UserModeStoresAreConfined :
    (userState 0x20 0x104 [(3, 0x55)] 0).psr.s = false ∧
      Result.meets (exec (.stb 3 0 (.imm 0x103)) (userState 0x20 0x104 [(3, 0x55)] 0))
        (fun t => Memory.read t.mem 0x1103 != Memory.read (userState 0x20 0x104 [(3, 0x55)] 0).mem 0x1103) = true := by
  decide

/-- Into supervisor mode by a software trap; out of it by `rett` and by `wr %psr`. -/
theorem test_witness_ModeTransitions :
    ((testState 0x20 [] 0).psr.s = false ∧
        Result.meets (exec (.ta 0 (.imm 3)) (testState 0x20 [] 0)) (fun t => t.psr.s) = true) ∧
      (testState 0x80 [] 0).psr.s = true ∧
      Result.meets (exec (.rett 0 (.imm 0x40)) (testState 0x80 [] 0)) (fun t => t.psr.s == false) = true ∧
      Result.meets (exec (.wrPsr 0 (.imm 0x20)) (testState 0x80 [] 0)) (fun t => t.psr.s == false) = true := by decide

/-- A condition code, Y and the window pointer change. -/
theorem test_witness_OnlyNamedInstructionsChange :
    Result.meets (exec (.subcc 0 0 (.imm 0)) (testState 0xA0 [] 0)) (fun t => t.psr.z != false) = true ∧
      Result.meets (exec (.wrY 0 (.imm 1)) (testState 0xA0 [] 0)) (fun t => t.y != 0) = true ∧
      Result.meets (exec (.save 0 0 (.imm 0)) (testState 0xA0 [] 0)) (fun t => t.psr.cwp != 0) = true ∧
      Result.meets (exec (.ta 0 (.imm 0)) (testState 0xA0 [] 0)) (fun t => t.psr.cwp != 0) = true := by decide

theorem test_witness_RunsKeepInvariant :
    (testState 0xA0 [(1, 5)] 0x01000000).Inv ∧
      (run (some 0x44) 2 (testState 0xA0 [(1, 5)] 0x01000000)).state.pc = 0x44 :=
  ⟨test_invariant, by decide⟩

/-- A trap of each kind, at the ends of the range of lines. -/
theorem test_witness_TrapEntry :
    (∀ n, TrapType.illegalInstruction ≠ .interruptLevel n) ∧ 1 ≤ (1 : BitVec 4).toNat ∧ 1 ≤ (15 : BitVec 4).toNat ∧
      (testState 0xA0 [] 0).psr.et = true := by decide

/-- An illegal instruction with traps disabled, and a reset to come: the run ends in error mode all the same. -/
def failingState : State :=
  { testState 0x80 [] 0 with inputs := [{ before := [], midway := [] }, { before := [.reset], midway := [] }] }

theorem test_witness_RunEnds_errorMode :
    failingState.errorMode = false ∧ failingState.beginTurn.pc = 0x40 ∧
      Result.meets (step failingState) (fun t => t.errorMode) = true ∧
      (run none 5 failingState).why = .errorMode ∧ (run none 5 failingState).state.pc = 0x40 ∧
      (run none 5 failingState).state.inputs.length = 1 := by decide

theorem test_witness_RunEnds_stopAddress :
    (testState 0xA0 [] 0).errorMode = false ∧ some (0x40 : Word) = some (testState 0xA0 [] 0).pc ∧
      (run (some 0x40) 5 (testState 0xA0 [] 0)).why = .stopAddress := by decide

/-- A load from 0x30000, which nobody answers, after another master's write. -/
def stuckState : State :=
  { testState 0xA0 [(1, 0x30000)] 0xC6006000 with
    platform := board, inputs := [{ before := [], midway := [{ word := 0x40, bsel := 0b1111, data := 5 }] }] }

theorem test_witness_RunEnds_stuck :
    stuckState.errorMode = false ∧ stuckState.beginTurn.pc = 0x40 ∧ step stuckState = .fault .busNoAnswer ∧
      (run none 5 stuckState).why = .stuck ∧ (run none 5 stuckState).state.pc = 0x40 ∧
      (run none 5 stuckState).state.mem.readWord 0x40 = 5 :=
  ⟨by decide, by decide, rfl, by decide, by decide, by decide⟩

/-- A RESET that moves `pc` to the stop address ends the run there. -/
theorem test_run_stops_after_reset :
    (run (some 0x100) 5 { onBoard 0 with inputs := [{ before := [.reset], midway := [] }] }).why = .stopAddress := by
  decide

end Sys2Proof.Machine
end

section
/-! PROOFS. Support: multiples of 4, the numbers PSR and TBR stand for, and the rules of the register file the obligations
of `10_state.md` need. -/
namespace Sys2Proof.Machine

/-! ### Multiples of 4 -/

theorem toNat_add_mod_four {a b : Word} (ha : a.toNat % 4 = 0) (hb : b.toNat % 4 = 0) : (a + b).toNat % 4 = 0 := by
  rw [BitVec.toNat_add]
  omega

theorem toNat_mul_four_mod_four (a : Word) : (a * 4).toNat % 4 = 0 := by
  rw [BitVec.toNat_mul, show (4 : Word).toNat = 4 from rfl]
  omega

/-- The offset of a branch as the number of R125. -/
theorem branchOffset_eq_ofInt (d : BitVec 22) : branchOffset d = BitVec.ofInt 32 (4 * d.toInt) := by
  rw [branchOffset, BitVec.signExtend, BitVec.ofInt_mul, mul_comm]
  rfl

/-! ### The packed registers -/

/-- An appended field stands below the others, at the weight of its width. -/
theorem toNat_append_eq_mul_add {m n : Nat} (x : BitVec m) (y : BitVec n) :
    (x ++ y).toNat = x.toNat * 2 ^ n + y.toNat := by
  rw [BitVec.toNat_append, ← Nat.shiftLeft_add_eq_or_of_lt y.isLt, Nat.shiftLeft_eq]

/-- TBR as a number (R46). -/
theorem Tbr.toWord_toNat (t : Tbr) : t.toWord.toNat = t.tba.toNat * 4096 + t.tt.toNat * 16 := by
  simp only [Tbr.toWord, toNat_append_eq_mul_add, BitVec.toNat_zero]
  omega

theorem Tbr.toWord_zero : ({ tba := 0, tt := 0 } : Tbr).toWord = 0 := by decide

/-- PSR as a number, every field at the weight of its lowest bit (R35). -/
theorem Psr.toWord_toNat (p : Psr) :
    p.toWord.toNat = p.n.toNat * 2 ^ 23 + p.z.toNat * 2 ^ 22 + p.v.toNat * 2 ^ 21 + p.c.toNat * 2 ^ 20 +
      p.pil.toNat * 2 ^ 8 + p.s.toNat * 2 ^ 7 + p.ps.toNat * 2 ^ 6 + p.et.toNat * 2 ^ 5 + p.cwp.toNat := by
  simp only [Psr.toWord, toNat_append_eq_mul_add, BitVec.toNat_zero, BitVec.toNat_ofBool]
  omega

/-- Writing a word to PSR and reading it back clears the reserved bits alone (R43, R316, R323). -/
theorem Psr.toWord_ofWord (w : Word) : (Psr.ofWord w).toWord = w &&& 0x00F00FFF := by
  apply BitVec.eq_of_getLsbD_eq
  intro i hi
  simp only [Psr.toWord, Psr.ofWord, BitVec.getLsbD_and, BitVec.getLsbD_append]
  interval_cases i <;> simp

/-- Reading PSR and writing the word back changes nothing (R316, R323). -/
theorem Psr.ofWord_toWord (p : Psr) : Psr.ofWord p.toWord = p := by
  obtain ⟨n, z, v, c, pil, s, ps, et, cwp⟩ := p
  simp only [Psr.ofWord, Psr.toWord, Psr.mk.injEq, BitVec.getLsbD_append]
  refine ⟨by simp, by simp, by simp, by simp, ?pil, by simp, by simp, by simp, ?cwp⟩
  all_goals
    apply BitVec.eq_of_getLsbD_eq
    intro i hi
    simp only [BitVec.getLsbD_extractLsb', BitVec.getLsbD_append]
    interval_cases i <;> simp

theorem Psr.ofWord_pil_toNat (w : Word) : (Psr.ofWord w).pil.toNat = w.toNat / 2 ^ 8 % 16 := by
  simp [Psr.ofWord, BitVec.extractLsb'_toNat, Nat.shiftRight_eq_div_pow]

theorem Psr.ofWord_cwp_toNat (w : Word) : (Psr.ofWord w).cwp.toNat = w.toNat % 32 := by
  simp [Psr.ofWord, BitVec.extractLsb'_toNat]

/-! ### The register file (R23 to R26) -/

/-- A register read after a register write in the same window (R24, R25). -/
theorem State.reg_setReg (s : State) (i j : RegNum) (v : Word) :
    (s.setReg i v).reg j = if j = i ∧ i ≠ 0 then v else s.reg j := by
  have hji : j = i ↔ j.toNat = i.toNat := BitVec.toNat_inj.symm
  by_cases hj0 : j = 0
  · subst hj0
    rw [if_neg (fun h => h.2 h.1.symm)]
    simp
  by_cases hj8 : j.toNat < 8
  · rw [State.reg_global _ hj0 hj8, State.reg_global _ hj0 hj8, State.setReg_glob_get]
    have hplace : (globalIndex j).val = j.toNat := Nat.mod_eq_of_lt hj8
    simp only [hplace, hji, and_comm]
  · have hj : 8 ≤ j.toNat := by omega
    rw [State.reg_windowed _ hj, State.reg_windowed _ hj, State.setReg_win_get, State.setReg_psr]
    have hplace : (8 ≤ i.toNat ∧ (windowIndex s.psr.cwp j).val = (s.psr.cwp.toNat * 16 + i.toNat - 8) % 512) ↔
        (j = i ∧ i ≠ 0) := by
      constructor
      · rintro ⟨hi, h⟩
        obtain rfl := windowIndex_inj hj hi (Fin.ext h)
        exact ⟨rfl, hj0⟩
      · rintro ⟨rfl, -⟩
        exact ⟨hj, rfl⟩
    simp only [hplace]

/-- The in registers of a window and the out registers of the window above are the same elements of `R` (R26). -/
theorem windowIndex_in_eq_out (w : BitVec 5) {k : Nat} (hk : k < 8) :
    windowIndex w (BitVec.ofNat 5 (24 + k)) = windowIndex (w + 1) (BitVec.ofNat 5 (8 + k)) := by
  have hw := w.isLt
  apply Fin.ext
  simp only [windowIndex, BitVec.toNat_ofNat, BitVec.toNat_add, show (1 : BitVec 5).toNat = 1 from rfl]
  omega

/-- No register of another window is among the locals of this one (R26). -/
theorem windowIndex_ne_local {w w' : BitVec 5} (hw : w' ≠ w) {i : RegNum} (hi : 8 ≤ i.toNat) {k : Nat} (hk : k < 8) :
    windowIndex w (BitVec.ofNat 5 (16 + k)) ≠ windowIndex w' i := by
  intro h
  have hn : w'.toNat ≠ w.toNat := fun e => hw (BitVec.eq_of_toNat_eq e)
  have h' := congrArg Fin.val h
  simp only [windowIndex, BitVec.toNat_ofNat] at h'
  have := w.isLt; have := w'.isLt; have := i.isLt
  omega

/-- No register write reaches `G[0]` (R21, R24). -/
theorem State.setReg_glob_zero (s : State) (rd : RegNum) (v : Word) : (s.setReg rd v).glob.get 0 = s.glob.get 0 := by
  have h : ¬ (rd ≠ 0 ∧ (0 : Fin 8).val = rd.toNat) := by
    rintro ⟨h0, h⟩
    exact h0 (BitVec.eq_of_toNat_eq h.symm)
  rw [State.setReg_glob_get, if_neg h]

end Sys2Proof.Machine
end

section
/-! PROOFS. Registers, conditions, control transfers, state registers and reset: O6, O7, O8, O9, O24, O25, O33, O35, O51,
O52. -/
namespace Sys2Proof.Machine

/-- Settles O6: the arrays by the laws of a register write, every other field by its own law. -/
theorem registerWrite : Obligations.RegisterWrite := by
  intro s i v
  refine ⟨onlyRegister_setReg s i v, ?_, ?_, ?_, ?_,
    ⟨.of_eq ?_, ⟨?_, ?_, ?_, ?_⟩, .of_eq ?_ ?_, ⟨?_, ?_, ?_, ?_⟩⟩⟩
  all_goals simp

/-- Settles O7. -/
theorem registerReadAfterWrite : Obligations.RegisterReadAfterWrite :=
  State.reg_setReg

/-- Settles O8: the places in `R` of in and out registers coincide, those of locals meet no other window. -/
theorem windowsOverlap : Obligations.WindowsOverlap := by
  constructor
  · intro s w k hk
    have hin : 8 ≤ (BitVec.ofNat 5 (24 + k)).toNat := by rw [BitVec.toNat_ofNat]; omega
    have hout : 8 ≤ (BitVec.ofNat 5 (8 + k)).toNat := by rw [BitVec.toNat_ofNat]; omega
    rw [State.reg_windowed _ hin, State.reg_windowed _ hout]
    simp only [State.setCwp_win, State.setCwp_psr, windowIndex_in_eq_out w hk]
  · intro s w w' i v k hk hw
    have hlocal : 8 ≤ (BitVec.ofNat 5 (16 + k)).toNat := by rw [BitVec.toNat_ofNat]; omega
    rw [State.reg_windowed _ hlocal, State.reg_windowed _ hlocal, State.setCwp_win, State.setReg_win_get, if_neg]
    · rfl
    · rintro ⟨hi, h⟩
      exact windowIndex_ne_local hw hi hk (Fin.ext h)

/-- The code of a condition determines it (R41). -/
theorem condCode_injective {c c' : Cond} : c.code = c'.code → c = c' := by
  cases c <;> cases c' <;> decide

/-- The condition that holds exactly when `c` does not (R41). -/
def negatedCond : Cond → Cond
  | .never => .always
  | .e => .ne
  | .le => .g
  | .l => .ge
  | .leu => .gu
  | .cs => .cc
  | .neg => .pos
  | .vs => .vc
  | .always => .never
  | .ne => .e
  | .g => .le
  | .ge => .l
  | .gu => .leu
  | .cc => .cs
  | .pos => .neg
  | .vc => .vs

theorem condTrue_negatedCond (c : Cond) (p : Psr) : condTrue (negatedCond c) p = !condTrue c p := by
  cases c <;> simp [negatedCond, condTrue]

/-- The codes of a condition and its negation differ in bit 3 alone (R41). -/
theorem code_negatedCond (c : Cond) : (negatedCond c).code = c.code ^^^ 0b1000 := by
  cases c <;> rfl

/-- Settles O9: the table by its rows, the negations because a code determines its condition. -/
theorem conditionTable : Obligations.ConditionTable := by
  intro p
  refine ⟨fun c => by cases c <;> rfl, fun c c' h => ?_⟩
  obtain rfl : c' = negatedCond c := condCode_injective (h.trans (code_negatedCond c).symm)
  exact condTrue_negatedCond c p

/-- The branch by its condition (R235). -/
theorem exec_branchOf (c : Cond) (a : Bool) (d : BitVec 22) (s : State) :
    exec (branchOf c a d) s = branch c a d s := by
  cases c <;> rfl

/-- Settles O24, by whether the branch is taken and whether it annuls. -/
theorem branches : Obligations.Branches := by
  intro c a d s
  rw [exec_branchOf]
  unfold branch
  cases hc : condTrue c s.psr
  · cases a
    · exact ⟨s.advance, by simp, .of_counters s _ _, by simp, fun _ _ => ⟨rfl, rfl⟩, by simp⟩
    · exact ⟨s.annul, by simp, .of_counters s _ _, by simp, by simp, fun _ _ => ⟨rfl, rfl⟩⟩
  · exact ⟨s.jumpTo (s.npc + branchOffset d), by simp, .of_counters s _ _,
      fun _ => ⟨rfl, by simp [branchOffset_eq_ofInt]⟩, by simp, by simp⟩

/-- A register write and a transfer change that register and the counters alone (R33). -/
theorem State.setReg_jumpTo_frame (s : State) (rd : RegNum) (v target : Word) :
    OnlyRegister s ((s.setReg rd v).jumpTo target) s.psr.cwp rd v ∧ KeepsCodes s ((s.setReg rd v).jumpTo target) ∧
      ((s.setReg rd v).jumpTo target).psr.cwp = s.psr.cwp ∧ ((s.setReg rd v).jumpTo target).y = s.y ∧
      KeepsOthers s ((s.setReg rd v).jumpTo target) ∧ Transfers s ((s.setReg rd v).jumpTo target) target := by
  refine ⟨(onlyRegister_setReg s rd v).congr rfl rfl rfl rfl, .of_eq ?_, ?_, ?_,
    ⟨.of_eq ?_, ⟨?_, ?_, ?_, ?_⟩, .of_eq ?_ ?_, ⟨?_, ?_, ?_, ?_⟩⟩, ⟨?_, ?_⟩⟩
  all_goals simp

/-- `jmp` to a multiple of 4 (R261). -/
theorem execJmp_aligned {s : State} {rd ro1 : RegNum} {o : Operand2} (h : (s.sum ro1 o).toNat % 4 = 0) :
    execJmp rd ro1 o s = .next ((s.setReg rd (s.sum ro1 o)).jumpTo (s.sum ro1 o)) := by
  rw [execJmp, wordAligned_eq, if_pos (decide_eq_true h)]

/-- Settles O25. -/
theorem jumpResult : Obligations.JumpResult := by
  rintro s rd ro1 o target rfl h
  exact ⟨_, execJmp_aligned h, s.setReg_jumpTo_frame rd _ _⟩

/-- In supervisor mode a privileged write of `rd` is its write (R181, R441). -/
theorem privileged_result_writesOnly {s : State} (hs : s.psr.s = true) (rd : RegNum) (v : Word) :
    ∃ t, privileged s (s.result rd v) = .next t ∧ WritesOnly s t rd v := by
  rw [privileged_supervisor hs]
  exact s.result_writesOnly rd v

/-- Settles O33: each read is a write of `rd`, and PSR and TBR are the numbers of their fields. -/
theorem stateRegisterReads : Obligations.StateRegisterReads := by
  intro s rd
  refine ⟨s.result_writesOnly rd s.y, fun hs => ?_⟩
  rw [← Tbr.toWord_toNat, ← Psr.toWord_toNat, BitVec.ofNat_toNat, BitVec.ofNat_toNat, BitVec.setWidth_eq,
    BitVec.setWidth_eq]
  exact ⟨privileged_result_writesOnly hs rd _, privileged_result_writesOnly hs rd _,
    privileged_result_writesOnly hs rd _, privileged_result_writesOnly hs rd _, privileged_result_writesOnly hs rd _⟩

/-- `wr %psr` in supervisor mode (R323, R441). -/
theorem execWrPsr_supervisor {s : State} (hs : s.psr.s = true) (ro1 : RegNum) (o : Operand2) :
    execWrPsr ro1 o s = .next { s with psr := Psr.ofWord (s.xorValue ro1 o) }.advance :=
  privileged_supervisor hs _

/-- Settles O35. -/
theorem psrWrite : Obligations.PsrWrite := by
  rintro s ro1 o v rfl hs
  exact ⟨_, execWrPsr_supervisor hs ro1 o, ⟨rfl, rfl, rfl, rfl⟩, Psr.ofWord_pil_toNat _, rfl, rfl, rfl,
    Psr.ofWord_cwp_toNat _, Psr.toWord_ofWord _,
    fun p hp => (congrArg Psr.ofWord hp).trans p.ofWord_toWord,
    rfl, .of_eq rfl rfl, ⟨rfl, rfl, rfl, rfl⟩, .of_eq rfl rfl, ⟨rfl, rfl, rfl, rfl⟩, ⟨rfl, rfl⟩⟩

/-- Settles O51: the two resets agree in every field but the lines, the input and the device log. -/
theorem resetState : Obligations.ResetState := by
  rintro p s t rfl (rfl | rfl)
  all_goals exact ⟨RegArray.get_zero, RegArray.get_zero, rfl, rfl, rfl, Psr.toWord_ofWord _, rfl, rfl, Tbr.toWord_zero,
    rfl, rfl, rfl, rfl, fun h => (congrArg State.irq h).trans rfl⟩

/-- Settles O52. -/
theorem defaultResetState : Obligations.DefaultResetState :=
  ⟨rfl, rfl, rfl, rfl⟩

end Sys2Proof.Machine
end

section
/-! PROOFS. What an instruction can do, said once: it raises a trap, or it completes inside the frame its kind gives it.
The frame carries the invariant along, so O54 and O58 both read it off. -/
namespace Sys2Proof.Machine

/-! ### The invariant under the named updates -/

/-- The invariant looks at memory, the configuration, `G` and the counters alone. -/
theorem State.Inv.congr {s t : State} (h : s.Inv) (hmem : t.mem = s.mem) (hplatform : t.platform = s.platform)
    (hg0 : t.glob.get 0 = s.glob.get 0) (hpc : t.pc = s.pc) (hnpc : t.npc = s.npc) : t.Inv :=
  ⟨by rw [hmem]; exact h.mem, by rw [hplatform]; exact h.image, by rw [hg0]; exact h.g0, by rw [hpc]; exact h.pc,
    by rw [hnpc]; exact h.npc, by rw [hplatform]; exact h.resetPc⟩

theorem State.Inv.setReg {s : State} (h : s.Inv) (rd : RegNum) (v : Word) : (s.setReg rd v).Inv :=
  h.congr (s.setReg_mem rd v) (s.setReg_platform rd v) (s.setReg_glob_zero rd v) (s.setReg_pc rd v) (s.setReg_npc rd v)

/-- Both counters replaced by multiples of 4. -/
theorem State.Inv.counters {s : State} (h : s.Inv) {p q : Word} (hp : p.toNat % 4 = 0) (hq : q.toNat % 4 = 0) :
    ({ s with pc := p, npc := q } : State).Inv :=
  ⟨h.mem, h.image, h.g0, hp, hq, h.resetPc⟩

/-- Memory replaced by one in canonical form. -/
theorem State.Inv.memory {s : State} (h : s.Inv) {m : Memory} (hm : Memory.wf m) (d : List Config.DeviceCycle) :
    ({ s with mem := m, deviceLog := d } : State).Inv :=
  ⟨hm, h.image, h.g0, h.pc, h.npc, h.resetPc⟩

theorem State.Inv.npc_add_four {s : State} (h : s.Inv) : (s.npc + 4).toNat % 4 = 0 :=
  toNat_add_mod_four h.npc (by decide)

theorem Tbr.toWord_mod_four (t : Tbr) : t.toWord.toNat % 4 = 0 := by
  rw [Tbr.toWord_toNat]
  omega

/-- Trap entry goes to an entry of the table, a multiple of 16 (R420, R421). -/
theorem State.Inv.takeTrap {s : State} (h : s.Inv) (tt : TrapType) : (s.takeTrap tt).Inv := by
  have hentry := Tbr.toWord_mod_four { s.tbr with tt := tt.code }
  refine ⟨?_, ?_, ?_, ?_, ?_, ?_⟩
  · rw [State.takeTrap_mem]; exact h.mem
  · rw [State.takeTrap_platform]; exact h.image
  · rw [State.takeTrap_glob]; exact h.g0
  · rw [State.takeTrap_pc]; exact hentry
  · rw [State.takeTrap_npc]; exact toNat_add_mod_four hentry (by decide)
  · rw [State.takeTrap_platform]; exact h.resetPc

/-- A raised trap, with traps enabled or not (R420, R424). -/
theorem State.Inv.raise {s t : State} (h : s.Inv) {tt : TrapType} (ht : raise tt s = .next t) : t.Inv := by
  rcases raise_cases tt s with ⟨-, e⟩ | ⟨-, e⟩ <;> rw [e] at ht <;> cases ht
  · exact h.takeTrap tt
  · exact h.congr rfl rfl rfl rfl rfl

/-- A read cycle logs at most a device cycle (R72, R100). -/
theorem State.Inv.busRead {s t : State} (h : s.Inv) {w : BitVec 30} {v : Word} (ht : busRead s w = .dtack v t) :
    t.Inv := by
  rcases busRead_dtack ht with ⟨-, -, rfl⟩ | ⟨-, -, rfl⟩
  · exact h
  · exact h.congr rfl rfl rfl rfl rfl

/-! ### The frame of an instruction -/

/-- What instruction `i` leaves as it was between two moments of its execution, by the lists of `Safety`: the condition
codes (R36), Y (R44) and the window pointer (R27) unless it is named there, the mode and the special registers unless it
is privileged (R441), and the invariant always. -/
structure InstrFrame (i : Instr) (s t : State) : Prop where
  inv : s.Inv → t.Inv
  codes : writesCodes i = false → KeepsCodes s t
  y : writesY i = false → t.y = s.y
  cwp : movesWindow i = false → t.psr.cwp = s.psr.cwp
  mode : isPrivileged i = false → KeepsMode s t
  special : isPrivileged i = false → KeepsSpecial s t
  rest : KeepsRest s t

theorem KeepsCodes.trans {s t u : State} (h : KeepsCodes s t) (h' : KeepsCodes t u) : KeepsCodes s u :=
  ⟨h'.n.trans h.n, h'.z.trans h.z, h'.v.trans h.v, h'.c.trans h.c⟩

theorem KeepsMode.trans {s t u : State} (h : KeepsMode s t) (h' : KeepsMode t u) : KeepsMode s u :=
  ⟨h'.pil.trans h.pil, h'.sup.trans h.sup, h'.ps.trans h.ps, h'.et.trans h.et⟩

theorem KeepsSpecial.trans {s t u : State} (h : KeepsSpecial s t) (h' : KeepsSpecial t u) : KeepsSpecial s u :=
  ⟨h'.wim.trans h.wim, h'.tbr.trans h.tbr, h'.base.trans h.base, h'.limite.trans h.limite⟩

theorem KeepsRest.trans {s t u : State} (h : KeepsRest s t) (h' : KeepsRest t u) : KeepsRest s u :=
  ⟨h'.errorMode.trans h.errorMode, h'.irq.trans h.irq, h'.platform.trans h.platform, h'.inputs.trans h.inputs⟩

namespace InstrFrame

variable {i : Instr} {s t u : State}

theorem trans (h : InstrFrame i s t) (h' : InstrFrame i t u) : InstrFrame i s u :=
  ⟨fun hs => h'.inv (h.inv hs), fun hi => (h.codes hi).trans (h'.codes hi), fun hi => (h'.y hi).trans (h.y hi),
    fun hi => (h'.cwp hi).trans (h.cwp hi), fun hi => (h.mode hi).trans (h'.mode hi),
    fun hi => (h.special hi).trans (h'.special hi), h.rest.trans h'.rest⟩

/-- A register write (R24). -/
theorem setReg (h : InstrFrame i s t) (rd : RegNum) (v : Word) : InstrFrame i s (t.setReg rd v) := by
  refine h.trans ⟨fun ht => ht.setReg rd v, fun _ => .of_eq ?_, fun _ => ?_, fun _ => ?_, fun _ => .of_eq ?_,
    fun _ => ⟨?_, ?_, ?_, ?_⟩, ⟨?_, ?_, ?_, ?_⟩⟩
  all_goals simp

/-- New condition codes, by an instruction that may write them (R36). -/
theorem setCodes (h : InstrFrame i s t) (hi : writesCodes i = true) (f : CondCodes) : InstrFrame i s (t.setCodes f) :=
  h.trans ⟨fun ht => ht.congr rfl rfl rfl rfl rfl, by simp [hi], fun _ => rfl, fun _ => rfl,
    fun _ => ⟨rfl, rfl, rfl, rfl⟩, fun _ => ⟨rfl, rfl, rfl, rfl⟩, ⟨rfl, rfl, rfl, rfl⟩⟩

/-- A new window, by an instruction that may move the pointer (R27). -/
theorem setCwp (h : InstrFrame i s t) (hi : movesWindow i = true) (w : BitVec 5) : InstrFrame i s (t.setCwp w) :=
  h.trans ⟨fun ht => ht.congr rfl rfl rfl rfl rfl, fun _ => ⟨rfl, rfl, rfl, rfl⟩, fun _ => rfl, by simp [hi],
    fun _ => ⟨rfl, rfl, rfl, rfl⟩, fun _ => ⟨rfl, rfl, rfl, rfl⟩, ⟨rfl, rfl, rfl, rfl⟩⟩

/-- A new Y, by an instruction that may write it (R44). -/
theorem setY (h : InstrFrame i s t) (hi : writesY i = true) (y : Word) : InstrFrame i s { t with y := y } :=
  h.trans ⟨fun ht => ht.congr rfl rfl rfl rfl rfl, fun _ => .of_eq rfl, by simp [hi], fun _ => rfl,
    fun _ => .of_eq rfl, fun _ => ⟨rfl, rfl, rfl, rfl⟩, ⟨rfl, rfl, rfl, rfl⟩⟩

/-- New special registers, by a privileged instruction (R441). -/
theorem setSpecial (h : InstrFrame i s t) (hi : isPrivileged i = true) (wim base limite : Word) (tbr : Tbr) :
    InstrFrame i s { t with wim := wim, tbr := tbr, base := base, limite := limite } :=
  h.trans ⟨fun ht => ht.congr rfl rfl rfl rfl rfl, fun _ => .of_eq rfl, fun _ => rfl, fun _ => rfl,
    fun _ => .of_eq rfl, by simp [hi], ⟨rfl, rfl, rfl, rfl⟩⟩

/-- A whole new PSR, by a privileged instruction that may move the window pointer; the condition codes stay unless it is
one of those that write them. -/
theorem setPsr (h : InstrFrame i s t) (hi : isPrivileged i = true) (hw : movesWindow i = true) (p : Psr)
    (hc : writesCodes i = false → KeepsCodes t { t with psr := p }) : InstrFrame i s { t with psr := p } :=
  h.trans ⟨fun ht => ht.congr rfl rfl rfl rfl rfl, hc, fun _ => rfl, by simp [hw], by simp [hi],
    fun _ => ⟨rfl, rfl, rfl, rfl⟩, ⟨rfl, rfl, rfl, rfl⟩⟩

/-- A bus cycle: memory in canonical form, and the device log. -/
theorem setMemory (h : InstrFrame i s t) (m : Memory) (d : List Config.DeviceCycle)
    (hm : Memory.wf t.mem → Memory.wf m) : InstrFrame i s { t with mem := m, deviceLog := d } :=
  h.trans ⟨fun ht => ht.memory (hm ht.mem) d, fun _ => .of_eq rfl, fun _ => rfl, fun _ => rfl, fun _ => .of_eq rfl,
    fun _ => ⟨rfl, rfl, rfl, rfl⟩, ⟨rfl, rfl, rfl, rfl⟩⟩

/-- New program counters, multiples of 4. -/
theorem setCounters (h : InstrFrame i s t) (p q : Word) (hpq : t.Inv → p.toNat % 4 = 0 ∧ q.toNat % 4 = 0) :
    InstrFrame i s { t with pc := p, npc := q } :=
  h.trans ⟨fun ht => ht.counters (hpq ht).1 (hpq ht).2, fun _ => .of_eq rfl, fun _ => rfl, fun _ => rfl,
    fun _ => .of_eq rfl, fun _ => ⟨rfl, rfl, rfl, rfl⟩, ⟨rfl, rfl, rfl, rfl⟩⟩

theorem refl (i : Instr) (s : State) : InstrFrame i s s :=
  ⟨id, fun _ => .of_eq rfl, fun _ => rfl, fun _ => rfl, fun _ => .of_eq rfl, fun _ => ⟨rfl, rfl, rfl, rfl⟩,
    ⟨rfl, rfl, rfl, rfl⟩⟩

/-- The end of an instruction that is no control transfer (R32). -/
theorem advance (h : InstrFrame i s t) : InstrFrame i s t.advance :=
  h.setCounters t.npc (t.npc + 4) fun ht => ⟨ht.npc, ht.npc_add_four⟩

/-- The end of a taken control transfer (R33). -/
theorem jumpTo (h : InstrFrame i s t) {a : Word} (ha : t.Inv → a.toNat % 4 = 0) : InstrFrame i s (t.jumpTo a) :=
  h.setCounters t.npc a fun ht => ⟨ht.npc, ha ht⟩

/-- The end of `rett` (R264). -/
theorem returnFromTrap (h : InstrFrame i s t) (hi : isPrivileged i = true) (hw : movesWindow i = true) {a : Word}
    (ha : t.Inv → a.toNat % 4 = 0) : InstrFrame i s (t.returnFromTrap a) :=
  (h.setPsr hi hw { t.psr with cwp := t.psr.cwp + 1, et := true, s := t.psr.ps } fun _ => ⟨rfl, rfl, rfl, rfl⟩).setCounters
    t.npc a fun ht => ⟨ht.npc, ha (ht.congr rfl rfl rfl rfl rfl)⟩

/-- A skipped delay instruction (R234). -/
theorem annul (h : InstrFrame i s t) : InstrFrame i s t.annul :=
  h.setCounters (t.npc + 4) (t.npc + 8) fun ht => ⟨ht.npc_add_four, toNat_add_mod_four ht.npc (by decide)⟩

/-- A read cycle (R72, R100). -/
theorem busRead {w : BitVec 30} {v : Word} (h : busRead s w = .dtack v t) : InstrFrame i s t := by
  rcases busRead_dtack h with ⟨-, -, rfl⟩ | ⟨-, -, rfl⟩
  · exact .refl i _
  · exact (InstrFrame.refl i s).setMemory s.mem _ id

/-- A write cycle keeps memory in canonical form (R72, R100). -/
theorem busWrite {w : BitVec 30} {b : BitVec 4} {d : Word} {x : Unit} (h : busWrite s w b d = .dtack x t) :
    InstrFrame i s t := by
  rcases busWrite_dtack h with ⟨-, rfl⟩ | ⟨-, rfl⟩
  · exact (InstrFrame.refl i s).setMemory _ s.deviceLog fun hm => Memory.wf_writeWord hm w b d
  · exact (InstrFrame.refl i s).setMemory s.mem _ id

end InstrFrame

/-! ### What the shared ends of an instruction answer -/

/-- A next state of outcome `r` is that of a trap raised in `s`, or lies in the frame of `i`. -/
structure TrapsOrKeeps (i : Instr) (s : State) (r : Result) : Prop where
  cases : ∀ t, r = .next t → (∃ tt, raise tt s = .next t) ∨ InstrFrame i s t

namespace TrapsOrKeeps

variable {i : Instr} {s : State}

theorem next {t : State} (h : InstrFrame i s t) : TrapsOrKeeps i s (.next t) := by
  constructor
  rintro _ ⟨⟩
  exact .inr h

theorem raise (tt : TrapType) : TrapsOrKeeps i s (raise tt s) :=
  ⟨fun _ h => .inl ⟨tt, h⟩⟩

theorem ite {c : Prop} [Decidable c] {r r' : Result} (h : c → TrapsOrKeeps i s r) (h' : ¬ c → TrapsOrKeeps i s r') :
    TrapsOrKeeps i s (if c then r else r') := by
  split
  · exact h ‹_›
  · exact h' ‹_›

theorem privileged {r : Result} (h : TrapsOrKeeps i s r) : TrapsOrKeeps i s (privileged s r) :=
  ite (fun _ => h) fun _ => raise _

theorem result (rd : RegNum) (v : Word) : TrapsOrKeeps i s (s.result rd v) :=
  next ((InstrFrame.refl i s).setReg rd v).advance

theorem resultCodes (hi : writesCodes i = true) (rd : RegNum) (v : Word) (f : CondCodes) :
    TrapsOrKeeps i s (s.resultCodes rd v f) :=
  next (((InstrFrame.refl i s).setReg rd v).setCodes hi f).advance

theorem product (hi : writesY i = true) (rd : RegNum) (p : BitVec 64) : TrapsOrKeeps i s (s.product rd p) :=
  next (((InstrFrame.refl i s).setReg rd _).setY hi _).advance

theorem productCodes (hy : writesY i = true) (hc : writesCodes i = true) (rd : RegNum) (p : BitVec 64) :
    TrapsOrKeeps i s (s.productCodes rd p) :=
  next ((((InstrFrame.refl i s).setReg rd _).setY hy _).setCodes hc _).advance

theorem division (hi : writesY i = true) (rd : RegNum) (d : Word) (v : Config.DivValue) :
    TrapsOrKeeps i s (s.division rd d v) :=
  ite (fun _ => raise _) fun _ => next (((InstrFrame.refl i s).setReg rd _).setY hi _).advance

theorem divisionCodes (hy : writesY i = true) (hc : writesCodes i = true) (rd : RegNum) (d : Word)
    (v : Config.DivValue) : TrapsOrKeeps i s (s.divisionCodes rd d v) :=
  ite (fun _ => raise _) fun _ => next ((((InstrFrame.refl i s).setReg rd _).setY hy _).setCodes hc _).advance

theorem load (n : Size) (extend : Word → Word) (rd ro1 : RegNum) (o : Operand2) :
    TrapsOrKeeps i s (load n extend rd ro1 o s) := by
  constructor
  intro t h
  rcases Access.andThen_next h with ⟨v, s', hr, hk⟩ | ⟨tt, -, hk⟩
  · obtain ⟨-, -, -, w, hbus, -⟩ := memRead_done hr
    cases hk
    exact .inr ((InstrFrame.busRead hbus).setReg rd _).advance
  · exact .inl ⟨tt, hk⟩

theorem store (n : Size) (rd ro1 : RegNum) (o : Operand2) : TrapsOrKeeps i s (store n rd ro1 o s) := by
  constructor
  intro t h
  rcases Access.andThen_next h with ⟨v, s', hw, hk⟩ | ⟨tt, -, hk⟩
  · obtain ⟨-, -, -, hbus⟩ := memWrite_done hw
    cases hk
    exact .inr (InstrFrame.busWrite hbus).advance
  · exact .inl ⟨tt, hk⟩

theorem branch (c : Cond) (a : Bool) (d : BitVec 22) : TrapsOrKeeps i s (branch c a d s) :=
  ite (fun _ => next ((InstrFrame.refl i s).jumpTo fun hs => toNat_add_mod_four hs.npc (toNat_mul_four_mod_four _)))
    fun _ => ite (fun _ => next (InstrFrame.refl i s).annul) fun _ => next (InstrFrame.refl i s).advance

theorem trapOn (c : Cond) (ro1 : RegNum) (o : Operand2) : TrapsOrKeeps i s (trapOn c ro1 o s) :=
  ite (fun _ => raise _) fun _ => next (InstrFrame.refl i s).advance

theorem jmp (rd ro1 : RegNum) (o : Operand2) : TrapsOrKeeps i s (execJmp rd ro1 o s) :=
  ite (fun h => next (((InstrFrame.refl i s).setReg rd _).jumpTo fun _ => by simpa [wordAligned_eq] using h))
    fun _ => raise _

theorem call (d : BitVec 30) : TrapsOrKeeps i s (execCall d s) :=
  next (((InstrFrame.refl i s).setReg 15 s.pc).jumpTo fun hs =>
    toNat_add_mod_four (by simpa using hs.npc) (toNat_mul_four_mod_four _))

theorem rett (hp : isPrivileged i = true) (hw : movesWindow i = true) (ro1 : RegNum) (o : Operand2) :
    TrapsOrKeeps i s (execRett ro1 o s) :=
  privileged (ite
    (fun h => next ((InstrFrame.refl i s).returnFromTrap hp hw fun _ => by simpa [wordAligned_eq] using h))
    fun _ => raise _)

theorem moveWindow (hi : movesWindow i = true) (tt : TrapType) (w : BitVec 5) (rd ro1 : RegNum) (o : Operand2) :
    TrapsOrKeeps i s (moveWindow tt w rd ro1 o s) :=
  ite (fun _ => raise _) fun _ => next (((InstrFrame.refl i s).setCwp hi w).setReg rd _).advance

theorem writeSpecial (hi : isPrivileged i = true) (wim base limite : Word) (tbr : Tbr) :
    TrapsOrKeeps i s (Machine.privileged s
      (.next { s with wim := wim, tbr := tbr, base := base, limite := limite }.advance)) :=
  privileged (next ((InstrFrame.refl i s).setSpecial hi wim base limite tbr).advance)

theorem wrPsr (hp : isPrivileged i = true) (hw : movesWindow i = true) (hc : writesCodes i = true) (ro1 : RegNum)
    (o : Operand2) : TrapsOrKeeps i s (execWrPsr ro1 o s) :=
  privileged (next ((InstrFrame.refl i s).setPsr hp hw _ (by simp [hc])).advance)

end TrapsOrKeeps

/-- Every instruction raises a trap or stays in its frame. -/
theorem exec_trapsOrKeeps (i : Instr) (s : State) : TrapsOrKeeps i s (exec i s) := by
  cases i
  case ld | ldub | lduh | ldsb | ldsh => exact .load ..
  case st | stb | sth => exact .store ..
  case sethi | and | or | xor | andn | orn | xnor | add | sub | sll | srl | sra | rdY => exact .result ..
  case andcc | orcc | xorcc | andncc | orncc | xnorcc | addcc | subcc => exact .resultCodes rfl ..
  case umul | smul => exact .product rfl ..
  case umulcc | smulcc => exact .productCodes rfl rfl ..
  case udiv | sdiv => exact .division rfl ..
  case udivcc | sdivcc => exact .divisionCodes rfl rfl ..
  case bn a d => exact .branch .never a d
  case ba a d => exact .branch .always a d
  case be | ble | bl | bleu | bcs | bneg | bvs | bne | bg | bge | bgu | bcc | bpos | bvc => exact .branch ..
  case tn ro1 o => exact .trapOn .never ro1 o
  case ta ro1 o => exact .trapOn .always ro1 o
  case te | tle | tl | tleu | tcs | tneg | tvs | tne | tg | tge | tgu | tcc | tpos | tvc => exact .trapOn ..
  case nop => exact .next (InstrFrame.refl ..).advance
  case jmp => exact .jmp ..
  case rett => exact .rett rfl rfl ..
  case call => exact .call ..
  case save | restore => exact .moveWindow rfl ..
  case rdBase | rdLimite | rdPsr | rdWim | rdTbr => exact .privileged (.result ..)
  case wrY => exact .next ((InstrFrame.refl ..).setY rfl _).advance
  case wrBase | wrLimite | wrWim | wrTbr => exact .writeSpecial rfl ..
  case wrPsr => exact .wrPsr rfl rfl rfl ..

/-! ### Trap entry -/

/-- Trap entry in the terms of R420, clause by clause. -/
theorem State.takeTrap_entered (s : State) (tt : TrapType) : TrapEntered s (s.takeTrap tt) tt.code := by
  obtain ⟨hpc, hnpc⟩ := s.takeTrap_saved tt
  have hglob := s.takeTrap_glob tt
  have hwin : ∀ j : Fin 512, j.val ≠ ((s.psr.cwp - 1).toNat * 16 + 9) % 512 →
      j.val ≠ ((s.psr.cwp - 1).toNat * 16 + 10) % 512 → (s.takeTrap tt).win.get j = s.win.get j := by
    intro j h17 h18
    rw [State.takeTrap_win_get, if_neg (fun e => h18 (congrArg Fin.val e)), if_neg (fun e => h17 (congrArg Fin.val e))]
  refine ⟨?_, ?_, ?_, ?_, hpc, hnpc, ?_, ?_, ?_, ?_, ?_, ⟨?_, ?_, ?_, ?_⟩, fun i => by rw [hglob], hwin, ?_, ?_, ?_, ?_,
    .of_eq ?_ ?_, ⟨?_, ?_, ?_, ?_⟩⟩
  all_goals simp [Tbr.toWord]

/-- Raising a trap leaves the condition codes and Y, and moves the window only by trap entry (R420, R424). -/
theorem raise_keeps {s t : State} {tt : TrapType} (h : raise tt s = .next t) :
    KeepsCodes s t ∧ t.y = s.y ∧ (t.psr.cwp ≠ s.psr.cwp → TrapEntered s t t.tbr.tt) := by
  rcases raise_cases tt s with ⟨-, e⟩ | ⟨-, e⟩ <;> rw [e] at h <;> cases h
  · have hentered := s.takeTrap_entered tt
    exact ⟨hentered.codes, hentered.y, fun _ => by rw [hentered.trapType]; exact hentered⟩
  · exact ⟨.of_eq rfl, rfl, fun hne => absurd rfl hne⟩

/-- Settles O58: an instruction that traps changes none of the three but the window; one that completes has its frame. -/
theorem onlyNamedInstructionsChange : Obligations.OnlyNamedInstructionsChange := by
  intro i s t h
  rcases (exec_trapsOrKeeps i s).cases t h with ⟨tt, hraise⟩ | hframe
  · obtain ⟨hcodes, hy, hcwp⟩ := raise_keeps hraise
    exact ⟨fun hne => absurd hcodes hne, fun hne => absurd hy hne, fun hne => .inr (hcwp hne)⟩
  · exact ⟨fun hne => Bool.of_not_eq_false (mt hframe.codes hne), fun hne => Bool.of_not_eq_false (mt hframe.y hne),
      fun hne => .inl (Bool.of_not_eq_false (mt hframe.cwp hne))⟩

end Sys2Proof.Machine
end

section
/-! PROOFS. The invariant: at reset (O53), along every step (O54) and along every run (O59). -/
namespace Sys2Proof.Machine

/-- Settles O53: the empty memory, the zero arrays and `RESET_PC` = 0. -/
theorem resetMeetsInvariant : Obligations.ResetMeetsInvariant :=
  ⟨State.reset_mem_wf, State.reset_mem_wf, RegArray.get_zero 0, by decide, by decide, by decide⟩

/-! ### The environment -/

theorem State.Inv.masterWrites {s : State} (h : s.Inv) (ms : List MasterWrite) : (s.masterWrites ms).Inv := by
  obtain ⟨m, d, e⟩ := s.masterWrites_eq ms
  have hm : Memory.wf m := by simpa [e] using State.masterWrites_wf ms h.mem
  rw [e]
  exact h.memory hm d

/-- A RESET of the instance gives memory its image and the counters `RESET_PC` (R460). -/
theorem State.Inv.resetAgain {s : State} (h : s.Inv) : s.resetAgain.Inv :=
  ⟨h.image, h.image, RegArray.get_zero 0, h.resetPc, toNat_add_mod_four h.resetPc (by decide), h.resetPc⟩

theorem State.Inv.event {s : State} (h : s.Inv) (e : EnvEvent) : (s.event e).Inv := by
  cases e with
  | irqLines lines => exact h.congr rfl rfl rfl rfl rfl
  | masterWrite m => exact h.masterWrites [m]
  | reset => exact h.resetAgain

theorem State.Inv.events {s : State} (h : s.Inv) (es : List EnvEvent) : (s.events es).Inv := by
  induction es generalizing s with
  | nil => exact h
  | cons e rest ih => exact ih (h.event e)

theorem State.Inv.beginTurn {s : State} (h : s.Inv) : s.beginTurn.Inv :=
  have htail : ({ s with inputs := s.inputs.tail } : State).Inv := h.congr rfl rfl rfl rfl rfl
  htail.events _

/-! ### The step -/

theorem State.Inv.exec {s t : State} (h : s.Inv) {i : Instr} (ht : exec i s = .next t) : t.Inv := by
  rcases (exec_trapsOrKeeps i s).cases t ht with ⟨tt, hraise⟩ | hframe
  · exact h.raise hraise
  · exact hframe.inv h

theorem State.Inv.execWord {s t : State} (h : s.Inv) {w : Word} (ht : execWord Machine.exec w s = .next t) : t.Inv := by
  unfold Machine.execWord at ht
  split at ht
  · exact h.exec ht
  · exact h.raise ht
  · cases ht

theorem State.Inv.fetch {s t : State} (h : s.Inv) {w : Word} (ht : fetch s = .done w t) : t.Inv := by
  obtain ⟨-, -, hbus⟩ := fetch_done ht
  exact h.busRead hbus

theorem State.Inv.fetchAndExec {s t : State} (h : s.Inv) {ms : List MasterWrite}
    (ht : fetchAndExec Machine.exec ms s = .next t) : t.Inv := by
  unfold Machine.fetchAndExec at ht
  split at ht
  next w s' hfetch => exact ((h.fetch hfetch).masterWrites ms).execWord ht
  next tt _ => exact (h.masterWrites ms).raise ht
  next => cases ht
  next => cases ht

theorem State.Inv.errorModeStep {s t : State} (h : s.Inv) {ms : List MasterWrite}
    (ht : errorModeStep ms s = .next t) : t.Inv := by
  unfold Machine.errorModeStep at ht
  split at ht
  · cases ht
  · cases ht
    exact h.masterWrites ms

/-- Settles O54: the environment's turn, then error mode, an interrupt or an instruction, each by its own lemma. -/
theorem stepKeepsInvariant : Obligations.StepKeepsInvariant := by
  intro s t hs ht
  have hbegin := hs.beginTurn
  unfold step cycle at ht
  split at ht
  · exact hbegin.errorModeStep ht
  · split at ht
    next n _ =>
      cases ht
      exact (hbegin.takeTrap (.interruptLevel n)).masterWrites _
    next => exact hbegin.fetchAndExec ht

/-! ### Runs -/

/-- The state a stopped step leaves behind: its fetch may have completed, its instruction has written nothing. -/
theorem State.Inv.stopped {s : State} (h : s.Inv) : s.stopped.Inv := by
  unfold State.stopped
  split
  next w s' hfetch => exact (h.beginTurn.fetch hfetch).masterWrites _
  next => exact h.beginTurn

/-- Settles O59, by induction on the bound of the run. -/
theorem runsKeepInvariant : Obligations.RunsKeepInvariant := by
  intro stopPc n
  induction n with
  | zero => exact fun s hs => hs
  | succ n ih =>
    intro s hs
    unfold run
    split
    next => exact hs
    next =>
      split
      · exact hs.beginTurn
      · split
        next t ht => exact ih t (stepKeepsInvariant s t hs ht)
        next => exact hs.stopped
        next => exact hs.stopped

end Sys2Proof.Machine
end

section
/-! PROOFS. Support for the obligations of `20_memory.md`: the bytes an access touches, what a load and a store are by who
answers their bus cycle, what stops an access, and what a step is by how its fetch ends. -/
namespace Sys2Proof.Machine

/-! ### The bytes of an aligned access (R73, R74) -/

/-- An aligned access stays inside its word (R85). -/
theorem Size.lane_add_bytes_le {n : Size} {a : Nat} (ha : a % n.bytes = 0) : a % 4 + n.bytes ≤ 4 := by
  cases n <;> simp only [Size.bytes] at ha ⊢ <;> omega

/-- Relocation with a usable BASE keeps every alignment (R80; log entry 10). -/
theorem State.absolute_aligned {s : State} {p : Word} {n : Size} (ha : p.toNat % n.bytes = 0)
    (hb : s.baseUsable = true) : (s.absolute p).toNat % n.bytes = 0 := by
  have h4 := State.absolute_mod_four (p := p) hb
  cases n <;> simp only [Size.bytes] at ha ⊢ <;> omega

/-- A byte of a word as a digit of its number in base 256 (R73). -/
theorem extractLsb'_byte_eq_ofNat (v : Word) (j : Nat) :
    v.extractLsb' (8 * j) 8 = BitVec.ofNat 8 (v.toNat / 256 ^ j) := by
  apply BitVec.eq_of_toNat_eq
  rw [BitVec.extractLsb'_toNat, BitVec.toNat_ofNat, Nat.shiftRight_eq_div_pow, pow_mul,
    show 2 ^ 8 = 256 from rfl]

/-- A read after an aligned store: its bytes hold the low bytes of the value, every other byte is as before (R74, R89). -/
theorem Memory.read_alignedStore (m : Memory) {a : Word} {n : Size} (ha : a.toNat % n.bytes = 0) (v : Word) (b : Nat) :
    Memory.read (m.writeWord (wordIndex a) (storeLanes n (lane a)) (alignStore n (lane a) v)) b =
      if a.toNat ≤ b ∧ b < a.toNat + n.bytes then BitVec.ofNat 8 (v.toNat / 256 ^ (b - a.toNat))
      else Memory.read m b := by
  have hfit := Size.lane_add_bytes_le ha
  have hb4 : b % 4 < 4 := Nat.mod_lt _ (by decide)
  have hselected : (b / 4 = (wordIndex a).toNat ∧ (storeLanes n (lane a)).getLsbD (b % 4) = true) ↔
      (a.toNat ≤ b ∧ b < a.toNat + n.bytes) := by
    rw [storeLanes_bit n _ hb4, wordIndex_toNat, lane_toNat, decide_eq_true_eq]
    omega
  rw [Memory.read_writeWord, if_congr hselected rfl rfl]
  split
  next hin =>
    have hlane := lane_toNat a
    rw [alignStore_byte n _ v (by omega) (by omega) hb4, ← extractLsb'_byte_eq_ofNat]
    congr 2
    omega
  next => rfl

/-- What an aligned load takes from memory: its bytes, the lowest address the least significant (R74, R75). -/
theorem alignLoad_readWord (m : Memory) {a : Word} {n : Size} (ha : a.toNat % n.bytes = 0) :
    alignLoad n (lane a) (m.readWord (wordIndex a)) = BitVec.ofNat 32 (littleEndian m a.toNat n.bytes) := by
  have hlane := lane_toNat a
  have haddr := laneAddress_wordIndex a
  cases n with
  | byte =>
    rw [alignLoad_byte, Memory.readWord_byte m _ (by omega), haddr, ← BitVec.ofNat_toNat]
    simp only [Size.bytes, littleEndian, Nat.mul_zero, Nat.add_zero]
  | half =>
    have hk : (lane a).toNat < 3 := by simp only [Size.bytes] at ha; omega
    rw [alignLoad_half, ← BitVec.ofNat_toNat, Memory.readWord_half m _ hk, haddr, Size.bytes]
  | word =>
    have hzero : lane a = 0 := lane_of_aligned ha
    rw [hzero] at haddr ⊢
    rw [alignLoad_word, Size.bytes, ← haddr, show (0 : BitVec 2).toNat = 0 from rfl, ← Memory.readWord_toNat,
      BitVec.ofNat_toNat, BitVec.setWidth_eq]

/-- A word load takes the whole word of its address (R75). -/
theorem alignLoad_word_aligned {a : Word} (ha : a.toNat % 4 = 0) (w : Word) : alignLoad .word (lane a) w = w := by
  rw [lane_of_aligned ha, alignLoad_word]

/-- A word store writes the whole word of its address (R89, R343). -/
theorem storeLanes_word_aligned {a : Word} (ha : a.toNat % 4 = 0) : storeLanes .word (lane a) = 0b1111 := by
  rw [lane_of_aligned ha]
  rfl

theorem alignStore_word_aligned {a : Word} (ha : a.toNat % 4 = 0) (v : Word) : alignStore .word (lane a) v = v := by
  rw [lane_of_aligned ha]
  apply BitVec.eq_of_getLsbD_eq
  intro i hi
  simp [alignStore, Size.mask_bit, Size.bytes, hi, -BitVec.getLsbD_eq_getElem]

/-! ### The addresses inside a word (R72, R73) -/

section
variable {a : Word} {k : Nat} (ha : a.toNat % 4 = 0) (hk : k < 4)
include ha hk

theorem toNat_add_of_aligned : (a + BitVec.ofNat 32 k).toNat = a.toNat + k := by
  rw [BitVec.toNat_add, BitVec.toNat_ofNat]
  have := a.isLt
  omega

theorem wordIndex_add_of_aligned : wordIndex (a + BitVec.ofNat 32 k) = wordIndex a := by
  apply BitVec.eq_of_toNat_eq
  rw [wordIndex_toNat, wordIndex_toNat, toNat_add_of_aligned ha hk]
  omega

theorem lane_add_of_aligned : lane (a + BitVec.ofNat 32 k) = BitVec.ofNat 2 k := by
  apply BitVec.eq_of_toNat_eq
  rw [lane_toNat, toNat_add_of_aligned ha hk, BitVec.toNat_ofNat]
  omega

end

/-- Relocation moves every program address by the same amount (R80). -/
theorem State.absolute_add (s : State) (p q : Word) : s.absolute (p + q) = s.absolute p + q := by
  unfold State.absolute
  split
  · rfl
  · exact add_right_comm p q s.base

/-- An access inside a permitted one is permitted (R81). -/
theorem State.permitted_of_le {s : State} {p q : Word} {m n : Nat} (hp : s.permitted p n = true)
    (h : q.toNat + m ≤ p.toNat + n) : s.permitted q m = true := by
  simp only [State.permitted, Bool.or_eq_true, decide_eq_true_eq] at hp ⊢
  exact hp.imp_right (le_trans h)

/-! ### What the signed loads fill in (R75, R156, R157) -/

theorem signFill_byte (x : Byte) : signFill .byte (x.setWidth 32) = x.signExtend 32 := by
  rw [signFill, BitVec.setWidth_setWidth_of_le _ (by decide), BitVec.setWidth_eq]

theorem signFill_half (x : BitVec 16) : signFill .half (x.setWidth 32) = x.signExtend 32 := by
  rw [signFill, BitVec.setWidth_setWidth_of_le _ (by decide), BitVec.setWidth_eq]

theorem signFill_byte_ofNat (x : Nat) : signFill .byte (BitVec.ofNat 32 x) = (BitVec.ofNat 8 x).signExtend 32 := by
  rw [signFill, BitVec.setWidth_ofNat_of_le (by decide)]

theorem signFill_half_ofNat (x : Nat) : signFill .half (BitVec.ofNat 32 x) = (BitVec.ofNat 16 x).signExtend 32 := by
  rw [signFill, BitVec.setWidth_ofNat_of_le (by decide)]

/-! ### A load and a store, by who answers -/

section
variable {s : State} {n : Size} {ro1 : RegNum} {o : Operand2} (ha : (s.sum ro1 o).toNat % n.bytes = 0)
  (hp : s.permitted (s.sum ro1 o) n.bytes = true) (hb : s.baseUsable = true)
include ha hp hb

/-- A load answered by memory (R88, R150). -/
theorem load_of_memory (hm : s.answers (s.sum ro1 o) = .memory) (extend : Word → Word) (rd : RegNum) :
    load n extend rd ro1 o s = s.result rd (extend (alignLoad n (lane (s.absolute (s.sum ro1 o)))
      (s.mem.readWord (wordIndex (s.absolute (s.sum ro1 o)))))) := by
  rw [load, memRead_memory ha hp hb hm]
  rfl

/-- A load answered by a device (R100, R150). -/
theorem load_of_device (hm : s.answers (s.sum ro1 o) = .device) (extend : Word → Word) (rd : RegNum) :
    load n extend rd ro1 o s =
      ({ s with deviceLog := .read (wordIndex (s.absolute (s.sum ro1 o))) :: s.deviceLog } : State).result rd
        (extend (alignLoad n (lane (s.absolute (s.sum ro1 o)))
          (Config.deviceWord s.deviceLog (wordIndex (s.absolute (s.sum ro1 o)))))) := by
  rw [load, memRead_device ha hp hb hm]
  rfl

/-- A store answered by memory (R89, R150). -/
theorem store_of_memory (hm : s.answers (s.sum ro1 o) = .memory) (rd : RegNum) :
    store n rd ro1 o s = .next ({ s with
      mem := s.mem.writeWord (wordIndex (s.absolute (s.sum ro1 o))) (storeLanes n (lane (s.absolute (s.sum ro1 o))))
        (alignStore n (lane (s.absolute (s.sum ro1 o))) (s.reg rd)) } : State).advance := by
  rw [store, memWrite_memory ha hp hb hm]
  rfl

/-- A store answered by a device (R100, R150). -/
theorem store_of_device (hm : s.answers (s.sum ro1 o) = .device) (rd : RegNum) :
    store n rd ro1 o s = .next ({ s with
      deviceLog := .write (wordIndex (s.absolute (s.sum ro1 o))) (storeLanes n (lane (s.absolute (s.sum ro1 o))))
        (alignStore n (lane (s.absolute (s.sum ro1 o))) (s.reg rd)) :: s.deviceLog } : State).advance := by
  rw [store, memWrite_device ha hp hb hm]
  rfl

end

/-- A bus cycle, a register write and the move of the counters stay in the frame of a load or store (R150, R152). -/
theorem AccessFrame.of_busCycle (s : State) (m : Memory) (d : List Config.DeviceCycle) (rd : RegNum) (v : Word) :
    AccessFrame s (({ s with mem := m, deviceLog := d } : State).setReg rd v).advance := by
  refine ⟨.of_eq ?_, ?_, ?_, .of_eq ?_, ⟨?_, ?_, ?_, ?_⟩, ⟨?_, ?_, ?_, ?_⟩, ⟨?_, ?_⟩⟩
  all_goals simp

/-- The same without a register write, as a store leaves it. -/
theorem AccessFrame.of_writeCycle (s : State) (m : Memory) (d : List Config.DeviceCycle) :
    AccessFrame s ({ s with mem := m, deviceLog := d } : State).advance :=
  .of_busCycle s m d 0 0

/-! ### What stops an access (R81, R85, R93) -/

/-- Raising a trap, in the terms of R420 and R424. -/
theorem raises_raise (s : State) (tt : TrapType) : Raises s (raise tt s) tt.code :=
  ⟨fun het => ⟨_, raise_enabled het tt, s.takeTrap_entered tt⟩, fun het => raise_disabled het tt⟩

theorem State.not_permitted_user {s : State} {p : Word} {n : Nat} (hs : s.psr.s = false)
    (hlimit : s.limite.toNat < p.toNat + n) : s.permitted p n = false := by
  simp only [State.permitted, hs, Bool.false_or, decide_eq_false_iff_not]
  omega

theorem State.permitted_user_iff {s : State} {p : Word} {n : Nat} (hs : s.psr.s = false) :
    s.permitted p n = true ↔ p.toNat + n ≤ s.limite.toNat := by
  simp [State.permitted, hs]

theorem State.not_baseUsable_user {s : State} (hs : s.psr.s = false) (hbase : s.base.toNat % 4 ≠ 0) :
    s.baseUsable = false := by
  simp [State.baseUsable, wordAligned_eq, hs, hbase]

/-- What stops an access of `n` bytes at `p` with outcome `r`, and in which order: alignment, the limit, an unusable BASE,
and the two ends of its bus cycle without DTACK (R88, R89, R93). -/
structure AccessStops (s : State) (p : Word) (n : Nat) (onErr : BitVec 8) (r : Result) : Prop where
  misaligned : p.toNat % n ≠ 0 → Raises s r 0x07
  beyondLimit : p.toNat % n = 0 → s.psr.s = false → s.limite.toNat < p.toNat + n → Raises s r 0x09
  badBase : p.toNat % n = 0 → s.psr.s = false → p.toNat + n ≤ s.limite.toNat → s.base.toNat % 4 ≠ 0 →
    r = .refused .misalignedBase
  busError : p.toNat % n = 0 → s.permitted p n = true → s.baseUsable = true → s.answers p = .error → Raises s r onErr
  noAnswer : p.toNat % n = 0 → s.permitted p n = true → s.baseUsable = true → s.answers p = .nobody →
    r = .fault .busNoAnswer

/-- The checks before a cycle and the ends of the cycle, for loads and stores alike: an access is its checks, then a
cycle `k` that ends by who answers. -/
theorem AccessStops.of_checked {α : Type} {s : State} {p : Word} {n : Size} {onErr : TrapType}
    {k : Unit → State → Access α} (cont : α → State → Result) (herror : s.answers p = .error → k () s = .trap onErr)
    (hnobody : s.answers p = .nobody → k () s = .fault .busNoAnswer) :
    AccessStops s p n.bytes onErr.code (((dataCheck s p n).bind k).andThen s cont) where
  misaligned ha := by
    rw [dataCheck_misaligned ha]
    exact raises_raise s .addressNotAligned
  beyondLimit ha hs hl := by
    rw [dataCheck_forbidden ha (State.not_permitted_user hs hl)]
    exact raises_raise s .dataAccessException
  badBase ha hs hl hbase := by
    rw [dataCheck_badBase ha ((State.permitted_user_iff hs).mpr hl) (State.not_baseUsable_user hs hbase)]
    rfl
  busError ha hp hb he := by
    rw [dataCheck_ok ha hp hb, Access.bind, herror he]
    exact raises_raise s onErr
  noAnswer ha hp hb hn := by
    rw [dataCheck_ok ha hp hb, Access.bind, hnobody hn]
    rfl

theorem busRead_error {s : State} {w : BitVec 30} (h : s.platform.answer w = .error) : busRead s w = .err := by
  rw [busRead, h]

theorem busRead_nobody {s : State} {w : BitVec 30} (h : s.platform.answer w = .nobody) : busRead s w = .noAnswer := by
  rw [busRead, h]

theorem busRead_memory {s : State} {w : BitVec 30} (h : s.platform.answer w = .memory) :
    busRead s w = .dtack (s.mem.readWord w) s := by
  rw [busRead, h]

theorem busWrite_error {s : State} {w : BitVec 30} (h : s.platform.answer w = .error) (b : BitVec 4) (d : Word) :
    busWrite s w b d = .err := by
  rw [busWrite, h]

theorem busWrite_nobody {s : State} {w : BitVec 30} (h : s.platform.answer w = .nobody) (b : BitVec 4) (d : Word) :
    busWrite s w b d = .noAnswer := by
  rw [busWrite, h]

theorem load_stops (n : Size) (extend : Word → Word) (rd ro1 : RegNum) (o : Operand2) (s : State) :
    AccessStops s (s.sum ro1 o) n.bytes 0x29 (load n extend rd ro1 o s) := by
  refine .of_checked (onErr := .dataAccessError) _ (fun h => ?_) (fun h => ?_)
  · rw [busRead_error h]; rfl
  · rw [busRead_nobody h]; rfl

theorem store_stops (n : Size) (rd ro1 : RegNum) (o : Operand2) (s : State) :
    AccessStops s (s.sum ro1 o) n.bytes 0x2B (store n rd ro1 o s) := by
  refine .of_checked (onErr := .dataStoreError) _ (fun h => ?_) (fun h => ?_)
  · rw [busWrite_error h]; rfl
  · rw [busWrite_nobody h]; rfl

/-! ### A fetch and the step around it (R90, R404) -/

/-- A fetch answered by memory (R90). -/
theorem fetch_of_memory {s : State} (hp : s.permitted s.pc 4 = true) (hb : s.baseUsable = true)
    (hm : s.answers s.pc = .memory) : fetch s = .done (s.mem.readWord (wordIndex (s.absolute s.pc))) s := by
  rw [fetch_ok hp hb, busRead_memory hm]
  rfl

theorem fetch_of_error {s : State} (hp : s.permitted s.pc 4 = true) (hb : s.baseUsable = true)
    (he : s.answers s.pc = .error) : fetch s = .trap .instructionAccessError := by
  rw [fetch_ok hp hb, busRead_error he]
  rfl

theorem fetch_of_nobody {s : State} (hp : s.permitted s.pc 4 = true) (hb : s.baseUsable = true)
    (hn : s.answers s.pc = .nobody) : fetch s = .fault .busNoAnswer := by
  rw [fetch_ok hp hb, busRead_nobody hn]
  rfl

theorem fetch_forbidden {s : State} (hp : s.permitted s.pc 4 = false) : fetch s = .trap .instructionAccessException := by
  simp [fetch, fetchCheck, hp, Access.bind]

theorem fetch_badBase {s : State} (hp : s.permitted s.pc 4 = true) (hb : s.baseUsable = false) :
    fetch s = .refused .misalignedBase := by
  simp [fetch, fetchCheck, hp, hb, Access.bind]

section
variable {ex : Instr → State → Result} {ms : List MasterWrite} {s : State}

theorem fetchAndExec_of_done {w : Word} {s' : State} (h : fetch s = .done w s') :
    fetchAndExec ex ms s = execWord ex w (s'.masterWrites ms) := by
  rw [fetchAndExec, h]

theorem fetchAndExec_of_trap {tt : TrapType} (h : fetch s = .trap tt) :
    fetchAndExec ex ms s = raise tt (s.masterWrites ms) := by
  rw [fetchAndExec, h]

theorem fetchAndExec_of_fault {f : Fault} (h : fetch s = .fault f) : fetchAndExec ex ms s = .fault f := by
  rw [fetchAndExec, h]

theorem fetchAndExec_of_refused {r : Refusal} (h : fetch s = .refused r) : fetchAndExec ex ms s = .refused r := by
  rw [fetchAndExec, h]

theorem execWord_of_instr {w : Word} {i : Instr} (h : decode w = .instr i) : execWord ex w s = ex i s := by
  rw [execWord, h]

end

/-- A step that takes no interrupt fetches (R404). -/
theorem step_fetches {s : State} (he : s.beginTurn.errorMode = false) (hi : s.beginTurn.acceptedInterrupt = none) :
    step s = fetchAndExec exec s.turn.midway s.beginTurn := by
  rw [step, cycle, he, hi]
  rfl

/-- With no input left the step that fetches does so in the state itself (R404). -/
theorem step_fetches_of_nil {s : State} (hn : s.inputs = []) (he : s.errorMode = false)
    (hi : s.acceptedInterrupt = none) : step s = fetchAndExec exec [] s := by
  have hb := State.beginTurn_of_nil hn
  have hstep := step_fetches (s := s) (by rw [hb]; exact he) (by rw [hb]; exact hi)
  rwa [hb, State.turn_of_nil hn] at hstep

end Sys2Proof.Machine
end

section
/-! PROOFS. An instruction changes memory by a store alone, and a store in user mode stays below LIMITE: O56. -/
namespace Sys2Proof.Machine

/-! ### All but the stores leave memory -/

/-- A next state of outcome `r` has the memory of `s`. -/
structure LeavesMemory (s : State) (r : Result) : Prop where
  mem : ∀ t, r = .next t → t.mem = s.mem

namespace LeavesMemory

variable {s : State}

theorem next {t : State} (h : t.mem = s.mem) : LeavesMemory s (.next t) := by
  constructor
  rintro _ ⟨⟩
  exact h

theorem raise (tt : TrapType) : LeavesMemory s (raise tt s) := by
  rcases raise_cases tt s with ⟨-, e⟩ | ⟨-, e⟩ <;> rw [e]
  · exact next (s.takeTrap_mem tt)
  · exact next rfl

theorem ite {c : Prop} [Decidable c] {r r' : Result} (h : LeavesMemory s r) (h' : LeavesMemory s r') :
    LeavesMemory s (if c then r else r') := by
  split
  · exact h
  · exact h'

theorem privileged {r : Result} (h : LeavesMemory s r) : LeavesMemory s (privileged s r) := ite h (raise _)

theorem result (rd : RegNum) (v : Word) : LeavesMemory s (s.result rd v) := next (s.setReg_mem rd v)

theorem resultCodes (rd : RegNum) (v : Word) (f : CondCodes) : LeavesMemory s (s.resultCodes rd v f) :=
  next (s.setReg_mem rd v)

theorem product (rd : RegNum) (p : BitVec 64) : LeavesMemory s (s.product rd p) := next (s.setReg_mem rd _)

theorem productCodes (rd : RegNum) (p : BitVec 64) : LeavesMemory s (s.productCodes rd p) := next (s.setReg_mem rd _)

theorem division (rd : RegNum) (d : Word) (v : Config.DivValue) : LeavesMemory s (s.division rd d v) :=
  ite (raise _) (next (s.setReg_mem rd _))

theorem divisionCodes (rd : RegNum) (d : Word) (v : Config.DivValue) : LeavesMemory s (s.divisionCodes rd d v) :=
  ite (raise _) (next (s.setReg_mem rd _))

theorem branch (c : Cond) (a : Bool) (d : BitVec 22) : LeavesMemory s (branch c a d s) :=
  ite (next rfl) (ite (next rfl) (next rfl))

theorem trapOn (c : Cond) (ro1 : RegNum) (o : Operand2) : LeavesMemory s (trapOn c ro1 o s) := ite (raise _) (next rfl)

theorem jmp (rd ro1 : RegNum) (o : Operand2) : LeavesMemory s (execJmp rd ro1 o s) :=
  ite (next (s.setReg_mem rd _)) (raise _)

theorem rett (ro1 : RegNum) (o : Operand2) : LeavesMemory s (execRett ro1 o s) := privileged (ite (next rfl) (raise _))

theorem moveWindow (tt : TrapType) (w : BitVec 5) (rd ro1 : RegNum) (o : Operand2) :
    LeavesMemory s (moveWindow tt w rd ro1 o s) :=
  ite (raise _) (next ((s.setCwp w).setReg_mem rd _))

/-- A load makes a read cycle, and that leaves memory (R72). -/
theorem load (n : Size) (extend : Word → Word) (rd ro1 : RegNum) (o : Operand2) :
    LeavesMemory s (load n extend rd ro1 o s) := by
  constructor
  intro t h
  rcases Access.andThen_next h with ⟨v, s', hread, hnext⟩ | ⟨tt, -, hraise⟩
  · obtain ⟨-, -, -, w, hbus, -⟩ := memRead_done hread
    have hmem : s'.mem = s.mem := by rcases busRead_dtack hbus with ⟨-, -, rfl⟩ | ⟨-, -, rfl⟩ <;> rfl
    cases hnext
    exact (s'.setReg_mem rd _).trans hmem
  · exact (raise tt).mem t hraise

end LeavesMemory

/-- Every instruction leaves memory or is a store. -/
theorem exec_leavesMemory_or_store (i : Instr) (s : State) :
    LeavesMemory s (exec i s) ∨ ∃ n rd ro1 o, exec i s = store n rd ro1 o s := by
  cases i
  case st => exact .inr ⟨.word, _, _, _, rfl⟩
  case sth => exact .inr ⟨.half, _, _, _, rfl⟩
  case stb => exact .inr ⟨.byte, _, _, _, rfl⟩
  all_goals left
  case ld | ldub | lduh | ldsb | ldsh => exact .load ..
  case sethi | and | or | xor | andn | orn | xnor | add | sub | sll | srl | sra | rdY => exact .result ..
  case andcc | orcc | xorcc | andncc | orncc | xnorcc | addcc | subcc => exact .resultCodes ..
  case umul | smul => exact .product ..
  case umulcc | smulcc => exact .productCodes ..
  case udiv | sdiv => exact .division ..
  case udivcc | sdivcc => exact .divisionCodes ..
  case bn a d => exact .branch .never a d
  case ba a d => exact .branch .always a d
  case be | ble | bl | bleu | bcs | bneg | bvs | bne | bg | bge | bgu | bcc | bpos | bvc => exact .branch ..
  case tn ro1 o => exact .trapOn .never ro1 o
  case ta ro1 o => exact .trapOn .always ro1 o
  case te | tle | tl | tleu | tcs | tneg | tvs | tne | tg | tge | tgu | tcc | tpos | tvc => exact .trapOn ..
  case nop => exact .next rfl
  case jmp => exact .jmp ..
  case rett => exact .rett ..
  case call => exact .next (s.setReg_mem 15 s.pc)
  case save | restore => exact .moveWindow ..
  case rdBase | rdLimite | rdPsr | rdWim | rdTbr => exact .privileged (.result ..)
  case wrY => exact .next rfl
  case wrBase | wrLimite | wrPsr | wrWim | wrTbr => exact .privileged (.next rfl)

/-! ### Where a store changes memory -/

/-- A byte a store changes is one of those at its absolute address, and the store was permitted (R81, R89). -/
theorem store_changes {s t : State} {n : Size} {rd ro1 : RegNum} {o : Operand2} {b : Nat}
    (h : store n rd ro1 o s = .next t) (hb : Memory.read t.mem b ≠ Memory.read s.mem b) :
    (s.sum ro1 o).toNat % n.bytes = 0 ∧ s.permitted (s.sum ro1 o) n.bytes = true ∧ s.baseUsable = true ∧
      (s.absolute (s.sum ro1 o)).toNat ≤ b ∧ b < (s.absolute (s.sum ro1 o)).toNat + n.bytes := by
  rcases Access.andThen_next h with ⟨u, s', hwrite, hnext⟩ | ⟨tt, -, hraise⟩
  · obtain ⟨haligned, hpermitted, hbase, hbus⟩ := memWrite_done hwrite
    cases hnext
    rw [State.advance_mem] at hb
    rcases busWrite_dtack hbus with ⟨-, rfl⟩ | ⟨-, rfl⟩
    · rw [Memory.read_alignedStore _ (State.absolute_aligned haligned hbase)] at hb
      by_contra hout
      exact hb (if_neg fun hin => hout ⟨haligned, hpermitted, hbase, hin⟩)
    · exact absurd rfl hb
  · rw [(LeavesMemory.raise tt).mem t hraise] at hb
    exact absurd rfl hb

/-- The bytes of a permitted aligned access in user mode are relocations of program addresses below LIMITE: neither the
program addresses nor their relocations wrap around inside the access (R80, R81; decisions D4, D5). -/
theorem State.user_access_confined {s : State} {p : Word} {n : Size} {b : Nat} (hs : s.psr.s = false)
    (ha : p.toNat % n.bytes = 0) (hp : s.permitted p n.bytes = true) (hu : s.baseUsable = true)
    (hlo : (s.absolute p).toNat ≤ b) (hhi : b < (s.absolute p).toNat + n.bytes) :
    ∃ q : Word, q.toNat < s.limite.toNat ∧ b = (q + s.base).toNat := by
  have hlimit := (State.permitted_user_iff hs).mp hp
  have hlimit_lt := s.limite.isLt
  have hfit := Size.lane_add_bytes_le (State.absolute_aligned ha hu)
  have habs_lt := (s.absolute p).isLt
  have habs : (s.absolute p).toNat = (p.toNat + s.base.toNat) % 2 ^ 32 := by
    rw [State.absolute, hs]
    exact BitVec.toNat_add ..
  have hq : (p + BitVec.ofNat 32 (b - (s.absolute p).toNat)).toNat = p.toNat + (b - (s.absolute p).toNat) := by
    rw [BitVec.toNat_add, BitVec.toNat_ofNat]
    omega
  refine ⟨p + BitVec.ofNat 32 (b - (s.absolute p).toNat), ?_, ?_⟩
  · rw [hq]
    omega
  · rw [BitVec.toNat_add, hq]
    omega

/-- Settles O56: only a store changes memory, and only at the bytes its limit check let through. -/
theorem userModeStoresAreConfined : Obligations.UserModeStoresAreConfined := by
  intro i s t b hs h hb
  rcases exec_leavesMemory_or_store i s with hleaves | ⟨n, rd, ro1, o, hstore⟩
  · rw [hleaves.mem t h] at hb
    exact absurd rfl hb
  · obtain ⟨haligned, hpermitted, hbase, hlo, hhi⟩ := store_changes (hstore.symm.trans h) hb
    exact State.user_access_confined hs haligned hpermitted hbase hlo hhi

end Sys2Proof.Machine
end

section
/-! PROOFS. Loads, stores, fetches and the step around them: O37, O38, O39, O40, O41, O46, O47, O49. -/
namespace Sys2Proof.Machine

/-! ### Loads and stores (R153 to R160) -/

/-- An aligned load answered by memory completes with the bytes at its absolute address (R74, R80, R88). -/
theorem load_completes {s : State} {n : Size} {ro1 : RegNum} {o : Operand2} (ha : (s.sum ro1 o).toNat % n.bytes = 0)
    (hp : s.permitted (s.sum ro1 o) n.bytes = true) (hb : s.baseUsable = true) (hm : s.answers (s.sum ro1 o) = .memory)
    (extend : Word → Word) (rd : RegNum) :
    ∃ t, load n extend rd ro1 o s = .next t ∧ WritesOnly s t rd
      (extend (BitVec.ofNat 32 (littleEndian s.mem (s.absolute (s.sum ro1 o)).toNat n.bytes))) := by
  rw [load_of_memory ha hp hb hm, alignLoad_readWord _ (State.absolute_aligned ha hb)]
  exact s.result_writesOnly rd _

/-- Settles O37: each load by its width, the signed ones with the sign of that width. -/
theorem loadsFromMemory : Obligations.LoadsFromMemory := by
  rintro s rd ro1 o p a rfl rfl hb hm
  refine ⟨fun h4 hp => load_completes (n := .word) h4 hp hb hm id rd, fun hp => ⟨?ldub, ?ldsb⟩,
    fun h2 hp => ⟨load_completes (n := .half) h2 hp hb hm id rd, ?ldsh⟩⟩
  case ldub => exact load_completes (n := .byte) (Nat.mod_one _) hp hb hm id rd
  case ldsb =>
    rw [← signFill_byte_ofNat]
    exact load_completes (n := .byte) (Nat.mod_one _) hp hb hm (signFill .byte) rd
  case ldsh =>
    rw [← signFill_half_ofNat]
    exact load_completes (n := .half) h2 hp hb hm (signFill .half) rd

/-- An aligned store answered by memory, byte by byte (R74, R80, R89). -/
theorem store_completes {s : State} {n : Size} {ro1 : RegNum} {o : Operand2} (ha : (s.sum ro1 o).toNat % n.bytes = 0)
    (hp : s.permitted (s.sum ro1 o) n.bytes = true) (hb : s.baseUsable = true) (hm : s.answers (s.sum ro1 o) = .memory)
    (rd : RegNum) :
    ∃ t, store n rd ro1 o s = .next t ∧ KeepsRegisters s t ∧ AccessFrame s t ∧ t.deviceLog = s.deviceLog ∧
      ∀ b : Nat, Memory.read t.mem b =
        if (s.absolute (s.sum ro1 o)).toNat ≤ b ∧ b < (s.absolute (s.sum ro1 o)).toNat + n.bytes then
          BitVec.ofNat 8 ((s.reg rd).toNat / 256 ^ (b - (s.absolute (s.sum ro1 o)).toNat))
        else Memory.read s.mem b :=
  ⟨_, store_of_memory ha hp hb hm rd, .of_eq rfl rfl, .of_writeCycle s _ _, rfl,
    Memory.read_alignedStore s.mem (State.absolute_aligned ha hb) (s.reg rd)⟩

/-- Settles O38. -/
theorem storesToMemory : Obligations.StoresToMemory := by
  rintro s rd ro1 o p a rfl rfl hb hm i n (⟨rfl, rfl⟩ | ⟨rfl, rfl⟩ | ⟨rfl, rfl⟩) ha hp
  · exact store_completes (n := .word) ha hp hb hm rd
  · exact store_completes (n := .half) ha hp hb hm rd
  · exact store_completes (n := .byte) ha hp hb hm rd

/-! ### Devices (R94, R100) -/

/-- A load answered by a device writes its register from the driven word and logs one read cycle (R100). -/
theorem load_completes_device {s : State} {n : Size} {ro1 : RegNum} {o : Operand2}
    (ha : (s.sum ro1 o).toNat % n.bytes = 0) (hp : s.permitted (s.sum ro1 o) n.bytes = true) (hb : s.baseUsable = true)
    (hm : s.answers (s.sum ro1 o) = .device) (extend : Word → Word) (rd : RegNum) {v : Word}
    (hv : extend (alignLoad n (lane (s.absolute (s.sum ro1 o)))
      (Config.deviceWord s.deviceLog (wordIndex (s.absolute (s.sum ro1 o))))) = v) :
    ∃ t, load n extend rd ro1 o s = .next t ∧ OnlyRegister s t s.psr.cwp rd v ∧ AccessFrame s t ∧
      (∀ b, Memory.read t.mem b = Memory.read s.mem b) ∧
      t.deviceLog = .read (wordIndex (s.absolute (s.sum ro1 o))) :: s.deviceLog := by
  subst hv
  have hreg := onlyRegister_setReg
    { s with deviceLog := .read (wordIndex (s.absolute (s.sum ro1 o))) :: s.deviceLog } rd
    (extend (alignLoad n (lane (s.absolute (s.sum ro1 o)))
      (Config.deviceWord s.deviceLog (wordIndex (s.absolute (s.sum ro1 o))))))
  refine ⟨_, load_of_device ha hp hb hm extend rd, hreg.congr rfl rfl rfl rfl,
    .of_busCycle s s.mem _ rd _, fun b => ?_, ?_⟩
  · rw [State.advance_mem, State.setReg_mem]
  · rw [State.advance_deviceLog, State.setReg_deviceLog]

/-- A store answered by a device logs one write cycle and changes nothing else (R100). -/
theorem store_completes_device {s : State} {n : Size} {ro1 : RegNum} {o : Operand2}
    (ha : (s.sum ro1 o).toNat % n.bytes = 0) (hp : s.permitted (s.sum ro1 o) n.bytes = true) (hb : s.baseUsable = true)
    (hm : s.answers (s.sum ro1 o) = .device) (rd : RegNum) :
    ∃ t, store n rd ro1 o s = .next t ∧ KeepsRegisters s t ∧ AccessFrame s t ∧
      (∀ b, Memory.read t.mem b = Memory.read s.mem b) ∧
      t.deviceLog = .write (wordIndex (s.absolute (s.sum ro1 o))) (storeLanes n (lane (s.absolute (s.sum ro1 o))))
        (alignStore n (lane (s.absolute (s.sum ro1 o))) (s.reg rd)) :: s.deviceLog :=
  ⟨_, store_of_device ha hp hb hm rd, .of_eq rfl rfl, .of_writeCycle s s.mem _, fun _ => rfl, rfl⟩

/-- Settles O39: each load by what its aligner takes from the driven word, each store by its cycle. -/
theorem deviceAccesses : Obligations.DeviceAccesses := by
  rintro s rd ro1 o p w k driven rfl rfl rfl rfl hb hm
  have hlane := lane_toNat (s.absolute (s.reg ro1 + s.op2 o))
  constructor
  · rintro i n v (⟨rfl, rfl, rfl⟩ | ⟨rfl, rfl, rfl⟩ | ⟨rfl, rfl, rfl⟩ | ⟨rfl, rfl, rfl⟩ | ⟨rfl, rfl, rfl⟩) ha hp
    · exact load_completes_device (n := .word) ha hp hb hm id rd
        (alignLoad_word_aligned (State.absolute_aligned (n := .word) ha hb) _)
    all_goals rw [← hlane]
    · exact load_completes_device (n := .byte) ha hp hb hm id rd (alignLoad_byte _ _)
    · refine load_completes_device (n := .byte) ha hp hb hm (signFill .byte) rd ?_
      rw [alignLoad_byte]
      exact signFill_byte _
    · exact load_completes_device (n := .half) ha hp hb hm id rd (alignLoad_half _ _)
    · refine load_completes_device (n := .half) ha hp hb hm (signFill .half) rd ?_
      rw [alignLoad_half]
      exact signFill_half _
  · rintro i z (⟨rfl, rfl⟩ | ⟨rfl, rfl⟩ | ⟨rfl, rfl⟩) ha hp
    all_goals exact store_completes_device ha hp hb hm rd

/-! ### What stops them (R88, R89) -/

/-- Settles O40: every load and every store stops as its checks and its cycle say. -/
theorem dataAccessStops : Obligations.DataAccessStops := by
  rintro s rd ro1 o p rfl i n onErr hi
  suffices h : AccessStops s (s.sum ro1 o) n onErr (exec i s) from
    ⟨h.misaligned, h.beyondLimit, h.badBase, h.busError, h.noAnswer⟩
  obtain ⟨rfl, rfl, rfl⟩ | ⟨rfl, rfl, rfl⟩ | ⟨rfl, rfl, rfl⟩ | ⟨rfl, rfl, rfl⟩ | ⟨rfl, rfl, rfl⟩ | ⟨rfl, rfl, rfl⟩ |
    ⟨rfl, rfl, rfl⟩ | ⟨rfl, rfl, rfl⟩ := hi
  · exact load_stops .word id rd ro1 o s
  · exact load_stops .half id rd ro1 o s
  · exact load_stops .half (signFill .half) rd ro1 o s
  · exact load_stops .byte id rd ro1 o s
  · exact load_stops .byte (signFill .byte) rd ro1 o s
  · exact store_stops .word rd ro1 o s
  · exact store_stops .half rd ro1 o s
  · exact store_stops .byte rd ro1 o s

/-! ### A stored word (R74, R97) -/

/-- A word stored to memory (R89, R158). -/
theorem store_word_of_memory {s : State} {ro1 : RegNum} {o : Operand2} (ha : (s.sum ro1 o).toNat % 4 = 0)
    (hp : s.permitted (s.sum ro1 o) 4 = true) (hb : s.baseUsable = true) (hm : s.answers (s.sum ro1 o) = .memory)
    (rd : RegNum) :
    store .word rd ro1 o s = .next ({ s with
      mem := s.mem.writeWord (wordIndex (s.absolute (s.sum ro1 o))) 0b1111 (s.reg rd) } : State).advance := by
  have haligned : (s.absolute (s.sum ro1 o)).toNat % 4 = 0 := State.absolute_aligned (n := .word) ha hb
  rw [store_of_memory (n := .word) ha hp hb hm, storeLanes_word_aligned haligned, alignStore_word_aligned haligned]

/-- A load from lane `k` of the word at `p` takes the bytes of that word from its lane (R73, R75). -/
theorem load_within_word {t : State} {p v : Word} {n : Size} {k : Nat} {ro1 : RegNum} {o : Operand2}
    (h4 : p.toNat % 4 = 0) (hk : k < 4) (hkn : k % n.bytes = 0) (hsum : t.sum ro1 o = p + BitVec.ofNat 32 k)
    (hp : t.permitted p 4 = true) (hb : t.baseUsable = true) (hm : t.answers p = .memory)
    (hv : t.mem.readWord (wordIndex (t.absolute p)) = v) (rd : RegNum) :
    ∃ u, load n id rd ro1 o t = .next u ∧ WritesOnly t u rd (alignLoad n (BitVec.ofNat 2 k) v) := by
  have habs : (t.absolute p).toNat % 4 = 0 := State.absolute_aligned (n := .word) h4 hb
  have hnat : (t.sum ro1 o).toNat = p.toNat + k := by rw [hsum, toNat_add_of_aligned h4 hk]
  have hword : wordIndex (t.absolute (t.sum ro1 o)) = wordIndex (t.absolute p) := by
    rw [hsum, State.absolute_add, wordIndex_add_of_aligned habs hk]
  have hlane : lane (t.absolute (t.sum ro1 o)) = BitVec.ofNat 2 k := by
    rw [hsum, State.absolute_add, lane_add_of_aligned habs hk]
  have haligned : (t.sum ro1 o).toNat % n.bytes = 0 := by
    rw [hnat]
    cases n <;> simp only [Size.bytes] at hkn ⊢ <;> omega
  have hfit := Size.lane_add_bytes_le hkn
  have hanswers : t.answers (t.sum ro1 o) = .memory := by rw [State.answers, hword]; exact hm
  rw [load_of_memory haligned (State.permitted_of_le hp (by omega)) hb hanswers, hword, hlane, hv]
  exact t.result_writesOnly rd _

/-- A fetch at `p` gives the word memory holds there (R90). -/
theorem fetch_reads {t : State} {p v : Word} (hpc : p = t.pc) (hp : t.permitted p 4 = true) (hb : t.baseUsable = true)
    (hm : t.answers p = .memory) (hv : t.mem.readWord (wordIndex (t.absolute p)) = v) : fetch t = .done v t := by
  subst hpc
  rw [fetch_of_memory hp hb hm, hv]

/-- Settles O41: the stored word is what the memory reads back at its index, so each load takes its lanes of it and the
fetch all of it. -/
theorem storedWordIsSeen : Obligations.StoredWordIsSeen := by
  intro s t rd ro1 o h h4 hp hb hm
  obtain rfl : ({ s with
      mem := s.mem.writeWord (wordIndex (s.absolute (s.sum ro1 o))) 0b1111 (s.reg rd) } : State).advance = t :=
    Host.Outcome.next.inj ((store_word_of_memory h4 hp hb hm rd).symm.trans h)
  have hread := Memory.readWord_writeWord_self s.mem (wordIndex (s.absolute (s.sum ro1 o))) (s.reg rd)
  constructor
  · intro rd' ro1' o' k hk hsum
    have hlane : (BitVec.ofNat 2 k).toNat = k := Nat.mod_eq_of_lt hk
    refine ⟨?ldub, fun h2 => ?lduh, fun h0 => ?ld⟩
    case ldub =>
      have hload := load_within_word (n := .byte) h4 hk (Nat.mod_one k) hsum hp hb hm hread rd'
      rwa [alignLoad_byte, hlane] at hload
    case lduh =>
      have hload := load_within_word (n := .half) h4 hk h2 hsum hp hb hm hread rd'
      rwa [alignLoad_half, hlane] at hload
    case ld =>
      subst h0
      have hload := load_within_word (n := .word) h4 hk rfl hsum hp hb hm hread rd'
      rwa [show BitVec.ofNat 2 0 = 0 from rfl, alignLoad_word] at hload
  · exact fun hnext => fetch_reads hnext hp hb hm hread

/-! ### The step (R404) -/

/-- Settles O47: the fetch gives the word at the program counter and leaves the state to the midway writes. -/
theorem stepRunsInstructionInTurn : Obligations.StepRunsInstructionInTurn := by
  rintro s b i rfl he hi hp hb hm hdecode
  rw [step_fetches he hi, fetchAndExec_of_done (fetch_of_memory hp hb hm), execWord_of_instr hdecode]

/-- The decoder on the four bytes of a word of memory (R73, R110). -/
theorem decode_of_decodeBytes {m : Memory} {a : Word} {d : Decoded} (ha : a.toNat % 4 = 0)
    (h : decodeBytes [Memory.read m a.toNat, Memory.read m (a.toNat + 1), Memory.read m (a.toNat + 2),
      Memory.read m (a.toNat + 3)] = some (d, [])) : decode (m.readWord (wordIndex a)) = d := by
  have haddr : 4 * (wordIndex a).toNat = a.toNat := by rw [wordIndex_toNat]; omega
  rw [Memory.readWord]
  simp only [laneAddress, haddr]
  exact (Prod.mk.inj (Option.some.inj h)).1

/-- Settles O46: the step of O47 where the turn is empty. -/
theorem stepRunsInstruction : Obligations.StepRunsInstruction := by
  rintro s i a hn he hi h4 hp hb hm rfl hbytes
  have habs : (s.absolute s.pc).toNat % 4 = 0 := (State.absolute_mod_four hb).trans h4
  rw [step_fetches_of_nil hn he hi, fetchAndExec_of_done (fetch_of_memory hp hb hm),
    execWord_of_instr (decode_of_decodeBytes habs hbytes), State.masterWrites_nil]

/-- Settles O49: what stops the fetch stops the step, and a trap of the fetch is raised in its place. -/
theorem fetchStops : Obligations.FetchStops := by
  intro s hn he hi
  rw [step_fetches_of_nil hn he hi]
  refine ⟨fun hs hl => ?limit, fun hs hl hbase => ?badBase, fun hp hb herror => ?busError, fun hp hb hnobody => ?noAnswer⟩
  case limit =>
    rw [fetchAndExec_of_trap (fetch_forbidden (State.not_permitted_user hs hl))]
    exact raises_raise s .instructionAccessException
  case badBase =>
    exact fetchAndExec_of_refused
      (fetch_badBase ((State.permitted_user_iff hs).mpr hl) (State.not_baseUsable_user hs hbase))
  case busError =>
    rw [fetchAndExec_of_trap (fetch_of_error hp hb herror)]
    exact raises_raise s .instructionAccessError
  case noAnswer => exact fetchAndExec_of_fault (fetch_of_nobody hp hb hnobody)

end Sys2Proof.Machine
end

section
/-! PROOFS. Support for the obligations of `30_encoding.md`: a word is the append of its fields, the fields of the two words
outside format 3, and the branches and the software traps by their condition. -/
namespace Sys2Proof
open Machine (branchOf softTrapOf)

/-! ### A word is its fields (R111 to R115) -/

/-- Format 3 (R114). -/
theorem word3_fields (w : Word) : word3 (opField w) (rdField w) (op3Field w) (ro1Field w) (low14Field w) = w := by
  apply BitVec.eq_of_getLsbD_eq
  intro i hi
  simp only [word3, opField, rdField, op3Field, ro1Field, low14Field, BitVec.getLsbD_append,
    BitVec.getLsbD_extractLsb']
  interval_cases i <;> simp

/-- Format 2 (R112). -/
theorem format2_fields (w : Word) : opField w ++ rdField w ++ op2Field w ++ low22Field w = w := by
  apply BitVec.eq_of_getLsbD_eq
  intro i hi
  simp only [opField, rdField, op2Field, low22Field, BitVec.getLsbD_append, BitVec.getLsbD_extractLsb']
  interval_cases i <;> simp

/-- A branch (R113). -/
theorem branch_fields (w : Word) :
    opField w ++ BitVec.ofBool (bit29Field w) ++ condField w ++ op2Field w ++ low22Field w = w := by
  apply BitVec.eq_of_getLsbD_eq
  intro i hi
  simp only [opField, bit29Field, condField, op2Field, low22Field, BitVec.getLsbD_append, BitVec.getLsbD_extractLsb']
  interval_cases i <;> simp

/-- Format 1 (R111). -/
theorem format1_fields (w : Word) : opField w ++ disp30Field w = w := by
  apply BitVec.eq_of_getLsbD_eq
  intro i hi
  simp only [opField, disp30Field, BitVec.getLsbD_append, BitVec.getLsbD_extractLsb']
  interval_cases i <;> simp

/-- Bits 29:25 of a software trap (R115). -/
theorem rdField_eq_bit29_cond (w : Word) : rdField w = BitVec.ofBool (bit29Field w) ++ condField w := by
  apply BitVec.eq_of_getLsbD_eq
  intro i hi
  simp only [rdField, bit29Field, condField, BitVec.getLsbD_append, BitVec.getLsbD_extractLsb']
  interval_cases i <;> simp

/-- The operand bits of the immediate form (R114). -/
theorem low14Field_eq_i_const13 (w : Word) : low14Field w = BitVec.ofBool (iField w) ++ const13Field w := by
  apply BitVec.eq_of_getLsbD_eq
  intro i hi
  simp only [low14Field, iField, const13Field, BitVec.getLsbD_append, BitVec.getLsbD_extractLsb']
  interval_cases i <;> simp

/-- The operand bits of the register form (R114). -/
theorem low14Field_eq_i_zero_ro2 (w : Word) :
    low14Field w = BitVec.ofBool (iField w) ++ zeroField w ++ ro2Field w := by
  apply BitVec.eq_of_getLsbD_eq
  intro i hi
  simp only [low14Field, iField, zeroField, ro2Field, BitVec.getLsbD_append, BitVec.getLsbD_extractLsb']
  interval_cases i <;> simp

/-- A word without bits 12:5, which an immediate shift ignores (R115, R224). -/
theorem and_shiftMask_eq_word3 (w : Word) :
    w &&& 0xFFFFE01F =
      word3 (opField w) (rdField w) (op3Field w) (ro1Field w) (BitVec.ofBool (iField w) ++ 0#8 ++ ro2Field w) := by
  apply BitVec.eq_of_getLsbD_eq
  intro i hi
  simp only [word3, opField, rdField, op3Field, ro1Field, iField, ro2Field, BitVec.getLsbD_and, BitVec.getLsbD_append,
    BitVec.getLsbD_extractLsb']
  interval_cases i <;> simp

/-! ### `sethi` and `call` -/

section
variable (rd : RegNum) (c : BitVec 22)

/-- The fields of the word of `sethi` (R112). -/
theorem sethiWord_fields :
    opField (encode (.sethi rd c)) = 0b00 ∧ op2Field (encode (.sethi rd c)) = 0b100 ∧
      rdField (encode (.sethi rd c)) = rd ∧ low22Field (encode (.sethi rd c)) = c := by
  refine ⟨?_, ?_, ?_, ?_⟩
  all_goals
    apply BitVec.eq_of_getLsbD_eq
    intro i hi
    simp only [encode, opField, op2Field, rdField, low22Field, BitVec.getLsbD_append, BitVec.getLsbD_extractLsb']
    interval_cases i <;> simp

theorem wellFormed_sethi : (Instr.sethi rd c).wellFormed = true ↔ ¬ (rd = 0 ∧ c = 0) := by
  rw [not_and_or]
  simp [Instr.wellFormed]

/-- `sethi` but for the word of `nop` (R170). -/
theorem decode_sethi (h : ¬ (rd = 0 ∧ c = 0)) : decode (encode (.sethi rd c)) = .instr (.sethi rd c) := by
  obtain ⟨hop, hop2, hrd, hlow⟩ := sethiWord_fields rd c
  rw [decode, if_neg (by rw [hop]; decide), if_pos hop, decodeFormat2, if_pos hop2, hrd, hlow, if_neg h]

end

/-- `call` (R111, R268). -/
theorem decode_call (d : BitVec 30) : decode (encode (.call d)) = .instr (.call d) := by
  have hop : opField (encode (.call d)) = 0b01 := by
    apply BitVec.eq_of_getLsbD_eq
    intro i hi
    simp only [encode, opField, BitVec.getLsbD_append, BitVec.getLsbD_extractLsb']
    interval_cases i <;> simp
  have hdisp : disp30Field (encode (.call d)) = d := by
    apply BitVec.eq_of_getLsbD_eq
    intro i hi
    simp only [encode, disp30Field, BitVec.getLsbD_append, BitVec.getLsbD_extractLsb']
    simp [hi]
  rw [decode, if_pos hop, hdisp]

/-! ### Branches and software traps by their condition (R41, R113, R115) -/

/-- Every four bits are the code of a condition (R41). -/
theorem exists_condCode (k : BitVec 4) : ∃ c : Cond, c.code = k := by
  have hall : ∀ k : BitVec 4, k ∈ List.map Cond.code
      [.never, .e, .le, .l, .leu, .cs, .neg, .vs, .always, .ne, .g, .ge, .gu, .cc, .pos, .vc] := by decide
  obtain ⟨c, -, hc⟩ := List.mem_map.mp (hall k)
  exact ⟨c, hc⟩

theorem branchRow_code (c : Cond) : branchRow c.code = branchOf c := by
  cases c <;> rfl

theorem trapRow_code (c : Cond) : trapRow c.code = softTrapOf c := by
  cases c <;> rfl

theorem encode_branchOf (c : Cond) (a : Bool) (d : BitVec 22) : encode (branchOf c a d) = branchWord c a d := by
  cases c <;> rfl

theorem encode_softTrapOf (c : Cond) (ro1 : RegNum) (o : Operand2) :
    encode (softTrapOf c ro1 o) = trapWord c ro1 o := by
  cases c <;> rfl

theorem wellFormed_branchOf (c : Cond) (a : Bool) (d : BitVec 22) : (branchOf c a d).wellFormed = true := by
  cases c <;> rfl

theorem wellFormed_softTrapOf (c : Cond) (ro1 : RegNum) (o : Operand2) : (softTrapOf c ro1 o).wellFormed = true := by
  cases c <;> rfl

end Sys2Proof
end

section
/-! PROOFS. The encoder undone by the decoder: O1, O2. -/
namespace Sys2Proof

/-- Settles O2, by the shape of the instruction's word. -/
theorem decodeInvertsEncode : Obligations.DecodeInvertsEncode := by
  intro i hwf
  cases i with
  | sethi rd c => exact decode_sethi rd c ((wellFormed_sethi rd c).mp hwf)
  | nop => rfl
  | call d => exact decode_call d
  | ld | ldub | lduh | ldsb | ldsh | st | stb | sth => exact decode_memory rfl _ _ _
  | sll | srl | sra => exact decode_shift rfl rfl _ _ _
  | rett | wrPsr | wrWim | wrTbr => exact decode_noRd rfl rfl rfl _ _
  | rdPsr | rdWim | rdTbr => exact decode_read rfl rfl rfl rfl _
  | rdY | rdBase | rdLimite => exact decode_readSelected rfl _
  | wrY | wrBase | wrLimite => exact decode_writeSelected rfl _ _
  | bn | be | ble | bl | bleu | bcs | bneg | bvs | ba | bne | bg | bge | bgu | bcc | bpos | bvc =>
    exact decode_branchWord _ _ _
  | tn | te | tle | tl | tleu | tcs | tneg | tvs | ta | tne | tg | tge | tgu | tcc | tpos | tvc =>
    exact decode_trapWord _ _ _
  | and | andcc | or | orcc | xor | xorcc | andn | andncc | orn | orncc | xnor | xnorcc | add | addcc | sub | subcc
  | umul | umulcc | smul | smulcc | udiv | udivcc | sdiv | sdivcc | jmp | save | restore =>
    exact decode_operand rfl _ _ _

/-- Settles O1: each word is the encoding of its instruction. -/
theorem writtenWordsDecode : Obligations.WrittenWordsDecode := by
  have decode_of_encode {w : Word} {i : Instr} (hw : encode i = w) (hwf : i.wellFormed = true) :
      decode w = .instr i := hw ▸ decodeInvertsEncode i hwf
  refine ⟨?_, ?_, ?_, ?_, ?_, ?_, ?_, ?_, ?_, ?_, ?_, ?_, ?_⟩
  all_goals exact decode_of_encode (by decide) (by decide)

end Sys2Proof
end

section
/-! PROOFS. Support: the decoder undone by the encoder. Op = 10 is read by the class of its row of R119: what the decoder
answers for each class is said once, and O3, O4 and O5 read it off. -/
namespace Sys2Proof

/-! ### Operands (R114, R115, R132) -/

theorem operandField_eq_none_iff (w : Word) : operandField w = none ↔ iField w = false ∧ zeroField w ≠ 0 := by
  unfold operandField
  cases iField w <;> simp

theorem shiftField_eq_none_iff (w : Word) : shiftField w = none ↔ iField w = false ∧ zeroField w ≠ 0 := by
  unfold shiftField
  cases iField w <;> simp

/-- The bits of the operand a word holds. -/
theorem operandBits_of_operandField {w : Word} {o : Operand2} (h : operandField w = some o) :
    operandBits o = low14Field w := by
  unfold operandField at h
  split_ifs at h with hi hz
  · obtain rfl := Option.some.inj h
    rw [low14Field_eq_i_const13, hi]
    rfl
  · obtain rfl := Option.some.inj h
    rw [low14Field_eq_i_zero_ro2, hz, Bool.eq_false_iff.mpr hi]
    rfl

/-- The bits of the count a word holds, without the bits an immediate shift ignores. -/
theorem shiftBits_of_shiftField {w : Word} {n : ShiftCount} (h : shiftField w = some n) :
    shiftBits n = if iField w = true then BitVec.ofBool (iField w) ++ 0#8 ++ ro2Field w else low14Field w := by
  unfold shiftField at h
  split_ifs at h with hi hz
  · obtain rfl := Option.some.inj h
    rw [if_pos hi, hi]
    rfl
  · obtain rfl := Option.some.inj h
    rw [if_neg hi, low14Field_eq_i_zero_ro2, hz, Bool.eq_false_iff.mpr hi]
    rfl

namespace Decoded
variable {α : Type} {o : Option α} {make : α → Instr}

theorem needs_eq_instr {i : Instr} (h : needs o make = .instr i) : ∃ x, o = some x ∧ make x = i := by
  cases o with
  | none => cases h
  | some x => exact ⟨x, rfl, Decoded.instr.inj h⟩

@[simp] theorem needs_ne_unassigned : needs o make ≠ .unassigned := by
  cases o <;> exact fun h => nomatch h

@[simp] theorem needs_eq_reservedField_iff : needs o make = .reservedField ↔ o = none := by
  cases o with
  | none => exact iff_of_true rfl rfl
  | some x => exact iff_of_false (fun h => nomatch h) (fun h => nomatch h)

end Decoded

/-! ### The rows of the tables by their words (R119, R120, R129, R130) -/

/-- The word of `i` is `w`, and `i` is well formed. -/
def EncodesAs (i : Instr) (w : Word) : Prop := i.wellFormed = true ∧ encode i = w

/-- A property of every entry of a table, from the first entry and the entries after it. -/
theorem forall_mem_row {α : Type} {p : α → Prop} {c : Prop} [Decidable c] {entry : α} {rest : Option α}
    (hentry : c → p entry) (hrest : ∀ make ∈ rest, p make) : ∀ make ∈ (if c then some entry else rest), p make := by
  split_ifs with hc
  · rintro make ⟨⟩
    exact hentry hc
  · exact hrest

theorem encodesAs_of_memoryRow (op3 : BitVec 6) : ∀ make ∈ memoryRow op3, ∀ (rd ro1 : RegNum) (o : Operand2),
    EncodesAs (make rd ro1 o) (word3 0b11 rd op3 ro1 (operandBits o)) := by
  unfold memoryRow
  repeat refine forall_mem_row (by rintro rfl _ _ _; exact ⟨rfl, rfl⟩) ?_
  rintro _ ⟨⟩

theorem encodesAs_of_operandRow (op3 : BitVec 6) : ∀ make ∈ operandRow op3, ∀ (rd ro1 : RegNum) (o : Operand2),
    EncodesAs (make rd ro1 o) (word3 0b10 rd op3 ro1 (operandBits o)) := by
  unfold operandRow
  repeat refine forall_mem_row (by rintro rfl _ _ _; exact ⟨rfl, rfl⟩) ?_
  rintro _ ⟨⟩

theorem encodesAs_of_shiftRow (op3 : BitVec 6) : ∀ make ∈ shiftRow op3, ∀ (rd ro1 : RegNum) (n : ShiftCount),
    EncodesAs (make rd ro1 n) (word3 0b10 rd op3 ro1 (shiftBits n)) := by
  unfold shiftRow
  repeat refine forall_mem_row (by rintro rfl _ _ _; exact ⟨rfl, rfl⟩) ?_
  rintro _ ⟨⟩

theorem encodesAs_of_noRdRow (op3 : BitVec 6) : ∀ make ∈ noRdRow op3, ∀ (ro1 : RegNum) (o : Operand2),
    EncodesAs (make ro1 o) (word3 0b10 0 op3 ro1 (operandBits o)) := by
  unfold noRdRow
  repeat refine forall_mem_row (by rintro rfl _ _; exact ⟨rfl, rfl⟩) ?_
  rintro _ ⟨⟩

theorem encodesAs_of_readRow (op3 : BitVec 6) : ∀ make ∈ readRow op3, ∀ rd : RegNum,
    EncodesAs (make rd) (word3 0b10 rd op3 0 0) := by
  unfold readRow
  repeat refine forall_mem_row (by rintro rfl _; exact ⟨rfl, rfl⟩) ?_
  rintro _ ⟨⟩

theorem encodesAs_of_readSelected (sel : RegNum) : ∀ make ∈ readSelected sel, ∀ rd : RegNum,
    EncodesAs (make rd) (word3 0b10 rd 0b101000 sel 0) := by
  unfold readSelected
  repeat refine forall_mem_row (by rintro rfl _; exact ⟨rfl, rfl⟩) ?_
  rintro _ ⟨⟩

theorem encodesAs_of_writeSelected (sel : RegNum) : ∀ make ∈ writeSelected sel, ∀ (ro1 : RegNum) (o : Operand2),
    EncodesAs (make ro1 o) (word3 0b10 sel 0b110000 ro1 (operandBits o)) := by
  unfold writeSelected
  repeat refine forall_mem_row (by rintro rfl _ _; exact ⟨rfl, rfl⟩) ?_
  rintro _ ⟨⟩

theorem encodesAs_branchRow (k : BitVec 4) (a : Bool) (d : BitVec 22) :
    EncodesAs (branchRow k a d) ((0b00 : BitVec 2) ++ BitVec.ofBool a ++ k ++ (0b010 : BitVec 3) ++ d) := by
  obtain ⟨c, rfl⟩ := exists_condCode k
  rw [branchRow_code]
  exact ⟨wellFormed_branchOf c a d, encode_branchOf c a d⟩

theorem encodesAs_trapRow (k : BitVec 4) (ro1 : RegNum) (o : Operand2) :
    EncodesAs (trapRow k ro1 o) (word3 0b10 (BitVec.ofBool false ++ k) 0b111010 ro1 (operandBits o)) := by
  obtain ⟨c, rfl⟩ := exists_condCode k
  rw [trapRow_code]
  exact ⟨wellFormed_softTrapOf c ro1 o, (encode_softTrapOf c ro1 o).trans (trapWord_eq_word3 c ro1 o)⟩

theorem memoryRow_isNone : ∀ op3 : BitVec 6, (memoryRow op3).isNone = true ↔ op3 ∉
    ([0b000000, 0b000001, 0b000010, 0b000100, 0b000101, 0b000110, 0b001001, 0b001010] : List (BitVec 6)) := by decide

theorem readSelected_isNone : ∀ sel : RegNum, (readSelected sel).isNone = true ↔ 2 < sel.toNat := by decide

theorem writeSelected_isNone : ∀ sel : RegNum, (writeSelected sel).isNone = true ↔ 2 < sel.toNat := by decide

/-! ### The classes of op = 10 (R119, R131) -/

/-- Which table of R119 assigns an op3 of op = 10, if any. -/
inductive Op10Class where
  | operand | shift | noRd | read | softTrap | readSelected | writeSelected | unassigned
  deriving DecidableEq

/-- In the order the decoder looks the tables up. -/
def op10Class (op3 : BitVec 6) : Op10Class :=
  if (operandRow op3).isSome then .operand
  else if (shiftRow op3).isSome then .shift
  else if (noRdRow op3).isSome then .noRd
  else if (readRow op3).isSome then .read
  else if op3 = 0b111010 then .softTrap
  else if op3 = 0b101000 then .readSelected
  else if op3 = 0b110000 then .writeSelected
  else .unassigned

theorem op10Class_shift : ∀ op3 : BitVec 6,
    op10Class op3 = .shift ↔ op3 = 0b100101 ∨ op3 = 0b100110 ∨ op3 = 0b100111 := by decide

theorem op10Class_noRd : ∀ op3 : BitVec 6,
    op10Class op3 = .noRd ↔ op3 = 0b110001 ∨ op3 = 0b110010 ∨ op3 = 0b110011 ∨ op3 = 0b111001 := by decide

theorem op10Class_read : ∀ op3 : BitVec 6,
    op10Class op3 = .read ↔ op3 = 0b101001 ∨ op3 = 0b101010 ∨ op3 = 0b101011 := by decide

theorem op10Class_softTrap : ∀ op3 : BitVec 6, op10Class op3 = .softTrap ↔ op3 = 0b111010 := by decide

theorem op10Class_readSelected : ∀ op3 : BitVec 6, op10Class op3 = .readSelected ↔ op3 = 0b101000 := by decide

theorem op10Class_writeSelected : ∀ op3 : BitVec 6, op10Class op3 = .writeSelected ↔ op3 = 0b110000 := by decide

theorem op10Class_unassigned : ∀ op3 : BitVec 6, op10Class op3 = .unassigned ↔ op3 ∈
    ([0b001000, 0b001001, 0b001100, 0b001101, 0b011000, 0b011001, 0b011100, 0b011101, 0b100000, 0b100001, 0b100010,
      0b100011, 0b100100, 0b101100, 0b101101, 0b101110, 0b101111, 0b110100, 0b110101, 0b110110, 0b110111, 0b111011,
      0b111110, 0b111111] : List (BitVec 6)) := by decide

/-- What the decoder answers for a word of op = 10, by the class of its op3. -/
inductive Op10Answer (w : Word) : Op10Class → Decoded → Prop
  | operand {make} (row : operandRow (op3Field w) = some make) :
    Op10Answer w .operand (.needs (operandField w) (make (rdField w) (ro1Field w)))
  | shift {make} (row : shiftRow (op3Field w) = some make) :
    Op10Answer w .shift (.needs (shiftField w) (make (rdField w) (ro1Field w)))
  | noRd {make} (row : noRdRow (op3Field w) = some make) :
    Op10Answer w .noRd (if rdField w = 0 then .needs (operandField w) (make (ro1Field w)) else .reservedField)
  | read {make} (row : readRow (op3Field w) = some make) :
    Op10Answer w .read (if ro1Field w = 0 ∧ low14Field w = 0 then .instr (make (rdField w)) else .reservedField)
  | softTrap (row : op3Field w = 0b111010) :
    Op10Answer w .softTrap
      (if bit29Field w = true then .reservedField else .needs (operandField w) (trapRow (condField w) (ro1Field w)))
  | readSelected {make} (row : op3Field w = 0b101000) (sel : readSelected (ro1Field w) = some make) :
    Op10Answer w .readSelected (if low14Field w = 0 then .instr (make (rdField w)) else .reservedField)
  | readUnselected (sel : readSelected (ro1Field w) = none) : Op10Answer w .readSelected .unassigned
  | writeSelected {make} (row : op3Field w = 0b110000) (sel : writeSelected (rdField w) = some make) :
    Op10Answer w .writeSelected (.needs (operandField w) (make (ro1Field w)))
  | writeUnselected (sel : writeSelected (rdField w) = none) : Op10Answer w .writeSelected .unassigned
  | unassigned : Op10Answer w .unassigned .unassigned

/-- The decoder of op = 10, row by row in the order it looks them up. -/
theorem decodeOp10_answer (w : Word) : Op10Answer w (op10Class (op3Field w)) (decodeOp10 w) := by
  cases ho : operandRow (op3Field w) with
  | some make => simpa [decodeOp10, op10Class, ho] using Op10Answer.operand ho
  | none =>
  cases hs : shiftRow (op3Field w) with
  | some make => simpa [decodeOp10, op10Class, ho, hs] using Op10Answer.shift hs
  | none =>
  cases hn : noRdRow (op3Field w) with
  | some make => simpa [decodeOp10, op10Class, ho, hs, hn] using Op10Answer.noRd hn
  | none =>
  cases hr : readRow (op3Field w) with
  | some make => simpa [decodeOp10, op10Class, ho, hs, hn, hr] using Op10Answer.read hr
  | none =>
  by_cases ht : op3Field w = 0b111010
  · have hclass := (op10Class_softTrap _).mpr ht
    simpa only [decodeOp10, hclass, ho, hs, hn, hr, if_pos ht] using Op10Answer.softTrap ht
  by_cases hrs : op3Field w = 0b101000
  · have hclass := (op10Class_readSelected _).mpr hrs
    cases hsel : readSelected (ro1Field w) with
    | some make =>
      simpa only [decodeOp10, hclass, ho, hs, hn, hr, if_neg ht, if_pos hrs, hsel] using Op10Answer.readSelected hrs hsel
    | none =>
      simpa only [decodeOp10, hclass, ho, hs, hn, hr, if_neg ht, if_pos hrs, hsel] using Op10Answer.readUnselected hsel
  by_cases hws : op3Field w = 0b110000
  · have hclass := (op10Class_writeSelected _).mpr hws
    cases hsel : writeSelected (rdField w) with
    | some make =>
      simpa only [decodeOp10, hclass, ho, hs, hn, hr, if_neg ht, if_neg hrs, if_pos hws, hsel] using
        Op10Answer.writeSelected hws hsel
    | none =>
      simpa only [decodeOp10, hclass, ho, hs, hn, hr, if_neg ht, if_neg hrs, if_pos hws, hsel] using
        Op10Answer.writeUnselected hsel
  · have hclass : op10Class (op3Field w) = .unassigned := by
      simp only [op10Class, ho, hs, hn, hr, Option.isSome_none, Bool.false_eq_true, if_false, if_neg ht, if_neg hrs,
        if_neg hws]
    simpa only [decodeOp10, hclass, ho, hs, hn, hr, if_neg ht, if_neg hrs, if_neg hws] using Op10Answer.unassigned

end Sys2Proof
end

section
/-! PROOFS. What the decoder answers for every word: O3, O4, O5. -/
namespace Sys2Proof

/-! ### The four values of op (R111) -/

theorem opField_cases (w : Word) : opField w = 0b00 ∨ opField w = 0b01 ∨ opField w = 0b10 ∨ opField w = 0b11 := by
  generalize opField w = op
  revert op
  decide

section
variable {w : Word}

theorem decode_of_op00 (h : opField w = 0b00) : decode w = decodeFormat2 w := by
  rw [decode, h]
  rfl

theorem decode_of_op01 (h : opField w = 0b01) : decode w = .instr (.call (disp30Field w)) := by
  rw [decode, h]
  rfl

theorem decode_of_op10 (h : opField w = 0b10) : decode w = decodeOp10 w := by
  rw [decode, h]
  rfl

theorem decode_of_op11 (h : opField w = 0b11) : decode w = decodeOp11 w := by
  rw [decode, h]
  rfl

end

/-! ### The word of what a word decodes to (R115, R224) -/

/-- A word without the bits that an immediate shift ignores. -/
def significantBits (w : Word) : Word :=
  if opField w = 0b10 ∧ op10Class (op3Field w) = .shift ∧ iField w = true then w &&& 0xFFFFE01F else w

section
variable {w : Word} {i : Instr}

theorem significantBits_of_op_ne (h : opField w ≠ 0b10) : significantBits w = w :=
  if_neg fun hs => h hs.1

theorem significantBits_of_class_ne (h : op10Class (op3Field w) ≠ .shift) : significantBits w = w :=
  if_neg fun hs => h hs.2.1

theorem word3_shiftBits (hop : opField w = 0b10) (hclass : op10Class (op3Field w) = .shift) {n : ShiftCount}
    (hn : shiftField w = some n) :
    word3 0b10 (rdField w) (op3Field w) (ro1Field w) (shiftBits n) = significantBits w := by
  rw [shiftBits_of_shiftField hn, significantBits, ← hop]
  by_cases hi : iField w = true
  · rw [if_pos hi, if_pos ⟨rfl, hclass, hi⟩, and_shiftMask_eq_word3]
  · rw [if_neg hi, if_neg fun hs => hi hs.2.2, word3_fields]

theorem encodesAs_of_decodeFormat2 (hop : opField w = 0b00) (h : decodeFormat2 w = .instr i) : EncodesAs i w := by
  unfold decodeFormat2 at h
  split_ifs at h with hsethi hnop hbranch
  · obtain rfl := Decoded.instr.inj h
    refine ⟨rfl, ?_⟩
    rw [← format2_fields w, hop, hsethi, hnop.1, hnop.2]
    rfl
  · obtain rfl := Decoded.instr.inj h
    refine ⟨(wellFormed_sethi _ _).mpr hnop, ?_⟩
    conv_rhs => rw [← format2_fields w, hop, hsethi]
    rfl
  · obtain rfl := Decoded.instr.inj h
    have hword := encodesAs_branchRow (condField w) (bit29Field w) (low22Field w)
    rwa [← hop, ← hbranch, branch_fields] at hword

theorem encodesAs_of_decodeOp11 (hop : opField w = 0b11) (h : decodeOp11 w = .instr i) : EncodesAs i w := by
  cases hrow : memoryRow (op3Field w) with
  | none => simp [decodeOp11, hrow] at h
  | some make =>
    obtain ⟨o, ho, rfl⟩ := Decoded.needs_eq_instr (o := operandField w) (make := make (rdField w) (ro1Field w))
      (by rwa [decodeOp11, hrow] at h)
    have hword := encodesAs_of_memoryRow _ _ hrow (rdField w) (ro1Field w) o
    rwa [operandBits_of_operandField ho, ← hop, word3_fields] at hword

/-- By the row of R119 that the word is read by. -/
theorem encodesAs_of_decodeOp10 (hop : opField w = 0b10) (h : decodeOp10 w = .instr i) :
    EncodesAs i (significantBits w) := by
  have hanswer := decodeOp10_answer w
  generalize hclass : op10Class (op3Field w) = c at hanswer
  rw [h] at hanswer
  have hbits (hne : c ≠ .shift) : significantBits w = w := significantBits_of_class_ne (hclass ▸ hne)
  generalize hd : Decoded.instr i = d at hanswer
  cases hanswer with
  | operand row =>
    obtain ⟨o, ho, rfl⟩ := Decoded.needs_eq_instr hd.symm
    have hword := encodesAs_of_operandRow _ _ row (rdField w) (ro1Field w) o
    rw [hbits (by decide)]
    rwa [operandBits_of_operandField ho, ← hop, word3_fields] at hword
  | shift row =>
    obtain ⟨n, hn, rfl⟩ := Decoded.needs_eq_instr hd.symm
    have hword := encodesAs_of_shiftRow _ _ row (rdField w) (ro1Field w) n
    rwa [word3_shiftBits hop hclass hn] at hword
  | noRd row =>
    split_ifs at hd with hrd
    obtain ⟨o, ho, rfl⟩ := Decoded.needs_eq_instr hd.symm
    have hword := encodesAs_of_noRdRow _ _ row (ro1Field w) o
    rw [hbits (by decide)]
    rwa [operandBits_of_operandField ho, ← hop, ← hrd, word3_fields] at hword
  | read row =>
    split_ifs at hd with hz
    obtain rfl := Decoded.instr.inj hd
    obtain ⟨hro1, hlow⟩ := hz
    have hword := encodesAs_of_readRow _ _ row (rdField w)
    rw [hbits (by decide)]
    rwa [← hop, ← hro1, ← hlow, word3_fields] at hword
  | softTrap row =>
    split_ifs at hd with hbit
    obtain ⟨o, ho, rfl⟩ := Decoded.needs_eq_instr hd.symm
    have hword := encodesAs_trapRow (condField w) (ro1Field w) o
    rw [hbits (by decide)]
    rwa [operandBits_of_operandField ho, ← hop, ← row, ← Bool.eq_false_iff.mpr hbit, ← rdField_eq_bit29_cond,
      word3_fields] at hword
  | readSelected row sel =>
    split_ifs at hd with hlow
    obtain rfl := Decoded.instr.inj hd
    have hword := encodesAs_of_readSelected _ _ sel (rdField w)
    rw [hbits (by decide)]
    rwa [← hop, ← row, ← hlow, word3_fields] at hword
  | writeSelected row sel =>
    obtain ⟨o, ho, rfl⟩ := Decoded.needs_eq_instr hd.symm
    have hword := encodesAs_of_writeSelected _ _ sel (ro1Field w) o
    rw [hbits (by decide)]
    rwa [operandBits_of_operandField ho, ← hop, ← row, word3_fields] at hword
  | readUnselected | writeUnselected | unassigned => cases hd

end

/-- Settles O3, by the value of op. -/
theorem encodeInvertsDecode : Obligations.EncodeInvertsDecode := by
  intro w i h
  simp only [← op10Class_shift]
  change EncodesAs i (significantBits w)
  obtain hop | hop | hop | hop := opField_cases w
  · rw [significantBits_of_op_ne (by rw [hop]; decide)]
    exact encodesAs_of_decodeFormat2 hop (decode_of_op00 hop ▸ h)
  · obtain rfl := Decoded.instr.inj ((decode_of_op01 hop).symm.trans h)
    rw [significantBits_of_op_ne (by rw [hop]; decide)]
    refine ⟨rfl, ?_⟩
    conv_rhs => rw [← format1_fields w, hop]
    rfl
  · exact encodesAs_of_decodeOp10 hop (decode_of_op10 hop ▸ h)
  · rw [significantBits_of_op_ne (by rw [hop]; decide)]
    exact encodesAs_of_decodeOp11 hop (decode_of_op11 hop ▸ h)

/-! ### The words without an instruction (R131, R132) -/

section
variable (w : Word)

theorem decodeFormat2_eq_unassigned_iff :
    decodeFormat2 w = .unassigned ↔ op2Field w ≠ 0b010 ∧ op2Field w ≠ 0b100 := by
  unfold decodeFormat2
  split_ifs <;> simp_all

theorem decodeFormat2_ne_reservedField : decodeFormat2 w ≠ .reservedField := by
  unfold decodeFormat2
  split_ifs <;> exact fun h => nomatch h

theorem decodeOp11_eq_unassigned_iff : decodeOp11 w = .unassigned ↔ (memoryRow (op3Field w)).isNone = true := by
  cases hrow : memoryRow (op3Field w) <;> simp [decodeOp11, hrow]

theorem decodeOp11_eq_reservedField_iff :
    decodeOp11 w = .reservedField ↔ decodeOp11 w ≠ .unassigned ∧ iField w = false ∧ zeroField w ≠ 0 := by
  cases hrow : memoryRow (op3Field w) <;> simp [decodeOp11, hrow, operandField_eq_none_iff]

theorem decodeOp10_eq_unassigned_iff :
    decodeOp10 w = .unassigned ↔ op10Class (op3Field w) = .unassigned ∨
      (op10Class (op3Field w) = .readSelected ∧ 2 < (ro1Field w).toNat) ∨
      (op10Class (op3Field w) = .writeSelected ∧ 2 < (rdField w).toNat) := by
  have hanswer := decodeOp10_answer w
  rw [← readSelected_isNone, ← writeSelected_isNone]
  generalize op10Class (op3Field w) = c at hanswer ⊢
  generalize decodeOp10 w = d at hanswer ⊢
  cases hanswer with
  | operand row | shift row => simp
  | noRd row | read row | softTrap row => split_ifs <;> simp
  | readSelected row sel => split_ifs <;> simp [sel]
  | writeSelected row sel | readUnselected sel | writeUnselected sel => simp [sel]
  | unassigned => simp

theorem decodeOp10_eq_reservedField_iff :
    decodeOp10 w = .reservedField ↔ decodeOp10 w ≠ .unassigned ∧
      (((op10Class (op3Field w) = .readSelected ∨ op10Class (op3Field w) = .read) ∧ low14Field w ≠ 0) ∨
       (op10Class (op3Field w) = .read ∧ ro1Field w ≠ 0) ∨
       (¬ (op10Class (op3Field w) = .readSelected ∨ op10Class (op3Field w) = .read) ∧
         iField w = false ∧ zeroField w ≠ 0) ∨
       (op10Class (op3Field w) = .noRd ∧ rdField w ≠ 0) ∨
       (op10Class (op3Field w) = .softTrap ∧ bit29Field w = true)) := by
  have hanswer := decodeOp10_answer w
  generalize op10Class (op3Field w) = c at hanswer ⊢
  generalize decodeOp10 w = d at hanswer ⊢
  cases hanswer with
  | operand row | writeSelected row sel => simp [operandField_eq_none_iff]
  | shift row => simp [shiftField_eq_none_iff]
  | noRd row | softTrap row => split_ifs <;> simp_all [operandField_eq_none_iff]
  | read row => split_ifs <;> simp_all [imp_iff_not_or, or_comm]
  | readSelected row sel => split_ifs <;> simp_all
  | readUnselected sel | writeUnselected sel | unassigned => simp

end

/-- Settles O4, by the value of op. -/
theorem unassignedWords : Obligations.UnassignedWords := by
  intro w
  simp only [← op10Class_unassigned, ← op10Class_readSelected, ← op10Class_writeSelected, ← memoryRow_isNone]
  obtain hop | hop | hop | hop := opField_cases w
  · simp [hop, decode_of_op00 hop, decodeFormat2_eq_unassigned_iff]
  · simp [hop, decode_of_op01 hop]
  · simp [hop, decode_of_op10 hop, decodeOp10_eq_unassigned_iff]
  · simp [hop, decode_of_op11 hop, decodeOp11_eq_unassigned_iff]

/-- Settles O5, by the value of op. -/
theorem reservedFieldWords : Obligations.ReservedFieldWords := by
  intro w
  simp only [← op10Class_readSelected, ← op10Class_read, ← op10Class_noRd, ← op10Class_softTrap]
  obtain hop | hop | hop | hop := opField_cases w
  · simp [hop, decode_of_op00 hop, decodeFormat2_ne_reservedField]
  · simp [hop, decode_of_op01 hop]
  · simp [hop, decode_of_op10 hop, decodeOp10_eq_reservedField_iff]
  · simp [hop, decode_of_op11 hop, decodeOp11_eq_reservedField_iff]

end Sys2Proof
end

section
/-! PROOFS. The operands and the shifts, and the step on a word without an instruction: O10, O21, O48. -/
namespace Sys2Proof.Machine

/-! ### The second operand (R121) -/

theorem State.op2_toInt (s : State) (o : Operand2) : (s.op2 o).toInt = s.signedOperand o := by
  cases o with
  | reg r => rfl
  | imm c => exact BitVec.toInt_signExtend_of_le (by decide)

theorem State.op2Unsigned_toNat (s : State) (o : Operand2) : (s.op2Unsigned o).toNat = s.unsignedOperand o := by
  cases o with
  | reg r => rfl
  | imm c => exact BitVec.toNat_setWidth_of_le (by decide)

/-- Settles O10. -/
theorem secondOperand : Obligations.SecondOperand := fun s _ c =>
  ⟨rfl, rfl, s.op2_toInt (.imm c), s.op2Unsigned_toNat (.imm c), fun o => ⟨s.op2_toInt o, s.op2Unsigned_toNat o⟩⟩

/-! ### The shifts (R123, R221 to R223) -/

/-- The count is the low five bits of the register or the constant (R123). -/
theorem State.shiftCount_eq (s : State) (o : ShiftCount) : s.shiftCount o = s.countOperand o := by
  cases o with
  | reg r => simp [State.shiftCount, State.countOperand, BitVec.extractLsb'_toNat]
  | imm n => rfl

theorem shiftLeft_eq_ofNat (a : Word) (n : Nat) : a <<< n = BitVec.ofNat 32 (a.toNat * 2 ^ n) := by
  apply BitVec.eq_of_toNat_eq
  rw [BitVec.toNat_shiftLeft, BitVec.toNat_ofNat, Nat.shiftLeft_eq]

theorem ushiftRight_eq_ofNat (a : Word) (n : Nat) : a >>> n = BitVec.ofNat 32 (a.toNat / 2 ^ n) := by
  rw [← Nat.shiftRight_eq_div_pow, ← BitVec.toNat_ushiftRight, BitVec.ofNat_toNat, BitVec.setWidth_eq]

theorem sshiftRight_eq_ofInt (a : Word) (n : Nat) : a.sshiftRight n = BitVec.ofInt 32 (a.toInt / 2 ^ n) := by
  rw [BitVec.sshiftRight, Int.shiftRight_eq_div_pow]
  norm_cast

/-- Settles O21: each shift writes `rd` alone, with the number its shift stands for. -/
theorem shifts : Obligations.Shifts := by
  rintro s rd ro1 o n rfl
  rw [← s.shiftCount_eq, ← shiftLeft_eq_ofNat, ← ushiftRight_eq_ofNat, ← sshiftRight_eq_ofInt]
  exact ⟨s.result_writesOnly rd _, s.result_writesOnly rd _, s.result_writesOnly rd _⟩

/-! ### A word without an instruction (R131, R132) -/

section
variable {ex : Instr → State → Result} {w : Word} {s : State}

theorem execWord_of_unassigned (h : decode w = .unassigned) : execWord ex w s = raise .illegalInstruction s := by
  rw [execWord, h]

theorem execWord_of_reservedField (h : decode w = .reservedField) : execWord ex w s = .refused .reservedField := by
  rw [execWord, h]

end

/-- Settles O48: the step is the fetched word's. -/
theorem stepOnWordsWithoutInstruction : Obligations.StepOnWordsWithoutInstruction := by
  rintro s w hn he hi hp hb hm rfl
  rw [step_fetches_of_nil hn he hi, fetchAndExec_of_done (fetch_of_memory hp hb hm), State.masterWrites_nil]
  refine ⟨fun h => ?unassigned, fun h => ?reserved⟩
  case unassigned =>
    rw [execWord_of_unassigned h]
    exact raises_raise s .illegalInstruction
  case reserved => exact execWord_of_reservedField h

end Sys2Proof.Machine
end

section
/-! PROOFS. `sethi`: O22. -/
namespace Sys2Proof.Machine

/-- The constant stands above ten zero bits (R124), which multiplies it by `2 ^ 10`. -/
theorem sethiValue_eq_ofNat (c : BitVec 22) : sethiValue c = BitVec.ofNat 32 (c.toNat * 1024) := by
  have hfits : c.toNat * 1024 < 2 ^ 32 := by omega
  apply BitVec.eq_of_toNat_eq
  rw [BitVec.toNat_ofNat, Nat.mod_eq_of_lt hfits, sethiValue, BitVec.toNat_append, Nat.shiftLeft_eq]
  exact Nat.or_zero _

/-- Settles O22: the word is the encoder's, and the instruction writes `rd` alone (R170). -/
theorem sethiResult : Obligations.SethiResult := by
  intro s rd c
  rw [← sethiValue_eq_ofNat]
  exact ⟨decode_sethi rd c, s.result_writesOnly rd _⟩

end Sys2Proof.Machine
end

section
/-! PROOFS. Logic, addition and subtraction: O11, O12, O13, O14. -/
namespace Sys2Proof.Machine

/-! ### N and Z of a result (R176) -/

theorem msb_eq_bit31 (r : Word) : r.msb = r.getLsbD 31 := BitVec.msb_eq_getLsbD_last r

/-! ### Logic (R177, R182 to R193) -/

/-- Settles O11: each word is that of its row of R119, and each instruction writes `rd` alone. -/
theorem logicalResults : Obligations.LogicalResults := by
  intro s rd ro1 o
  rw [BitVec.not_xor_right]
  refine ⟨?_, s.result_writesOnly rd _, ?_, s.result_writesOnly rd _, ?_, s.result_writesOnly rd _,
    ?_, s.result_writesOnly rd _, ?_, s.result_writesOnly rd _, ?_, s.result_writesOnly rd _⟩
  all_goals exact decode_operand rfl rd ro1 o

/-- The end of a logical `cc` instruction: N is bit 31, V and C are 0 (R177). -/
theorem logicCodes_writes (s : State) (rd : RegNum) (r : Word) :
    ∃ t, logicCodes rd r s = .next t ∧ WritesWithCodes s t rd r (r.getLsbD 31) (decide (r = 0)) false false := by
  rw [← msb_eq_bit31]
  exact s.resultCodes_writes rd r (codesLogic r)

/-- Settles O12: as O11, with the codes of R177. -/
theorem logicalResultsWithCodes : Obligations.LogicalResultsWithCodes := by
  intro s rd ro1 o r
  rw [BitVec.not_xor_right]
  refine ⟨?_, ?and, ?_, ?or, ?_, ?xor, ?_, ?andn, ?_, ?orn, ?_, ?xnor⟩
  case and | or | xor | andn | orn | xnor =>
    rintro rfl
    exact logicCodes_writes s rd _
  all_goals exact decode_operand rfl rd ro1 o

/-! ### Addition and subtraction (R178, R194 to R197) -/

theorem add_eq_ofNat (a b : Word) : a + b = BitVec.ofNat 32 ((a.toNat + b.toNat) % 2 ^ 32) := by
  rw [← BitVec.toNat_add, BitVec.ofNat_toNat, BitVec.setWidth_eq]

theorem sub_eq_ofInt (a b : Word) : a - b = BitVec.ofInt 32 ((a.toNat : Int) - (b.toNat : Int)) := by
  rw [BitVec.sub_eq_add_neg, sub_eq_add_neg, BitVec.ofInt_add, BitVec.ofInt_neg, BitVec.ofInt_natCast,
    BitVec.ofInt_natCast, BitVec.ofNat_toNat, BitVec.ofNat_toNat, BitVec.setWidth_eq, BitVec.setWidth_eq]

/-- Settles O13. -/
theorem addAndSubtract : Obligations.AddAndSubtract := by
  intro s rd ro1 o
  rw [← add_eq_ofNat, ← sub_eq_ofInt]
  exact ⟨decode_operand rfl rd ro1 o, s.result_writesOnly rd _, decode_operand rfl rd ro1 o,
    s.result_writesOnly rd _⟩

/-- A signed sum leaves 32 bits exactly when the operands have one sign and the sum the other: the two forms of V in
R178. -/
theorem codesAdd_v (a b : Word) : (codesAdd a b).v =
    ((a.getLsbD 31 == b.getLsbD 31) && ((a + b).getLsbD 31 != a.getLsbD 31)) := by
  have hsigns := BitVec.saddOverflow_eq a b
  rw [msb_eq_bit31, msb_eq_bit31, msb_eq_bit31] at hsigns
  rw [bne, ← hsigns]
  simp only [codesAdd, BitVec.saddOverflow, ← Bool.decide_or, decide_eq_decide]
  omega

/-- A signed difference leaves 32 bits exactly when the operands differ in sign and the difference has not the sign of
the minuend: the two forms of V in R178. -/
theorem codesSub_v (a b : Word) : (codesSub a b).v =
    ((a.getLsbD 31 != b.getLsbD 31) && ((a - b).getLsbD 31 != a.getLsbD 31)) := by
  have hsigns : ((a.getLsbD 31 != b.getLsbD 31) && ((a - b).getLsbD 31 != a.getLsbD 31)) = a.ssubOverflow b := by
    rw [BitVec.ssubOverflow_eq, msb_eq_bit31, msb_eq_bit31, msb_eq_bit31]
    cases a.getLsbD 31 <;> cases b.getLsbD 31 <;> cases (a - b).getLsbD 31 <;> rfl
  rw [hsigns]
  simp only [codesSub, BitVec.ssubOverflow, ← Bool.decide_or, decide_eq_decide]
  omega

/-- Settles O14: V by its two forms, the other codes as the model computes them. -/
theorem addAndSubtractWithCodes : Obligations.AddAndSubtractWithCodes := by
  rintro s rd ro1 o a b rfl rfl
  rw [← codesAdd_v, ← codesSub_v, ← msb_eq_bit31, ← msb_eq_bit31]
  exact ⟨s.resultCodes_writes rd _ _, s.resultCodes_writes rd _ _⟩

end Sys2Proof.Machine
end

section
/-! PROOFS. Multiplication: O15, O16. -/
namespace Sys2Proof.Machine

/-! ### The two words of a product (R198, R200) -/

theorem highWord_append_lowWord (p : BitVec 64) : highWord p ++ lowWord p = p :=
  (BitVec.extractLsb'_append_extractLsb'_eq_extractLsb' (by rfl)).trans BitVec.extractLsb'_eq_self

/-- A doubleword of Y and a register, as a signed number: the sign is that of the high word. -/
theorem toInt_append_word (high low : Word) : (high ++ low).toInt = high.toInt * 2 ^ 32 + (low.toNat : Int) := by
  rw [BitVec.toInt_append, if_neg (by decide), mul_comm]

theorem productUnsigned_toNat (a b : Word) :
    (highWord (productUnsigned a b)).toNat * 2 ^ 32 + (lowWord (productUnsigned a b)).toNat = a.toNat * b.toNat := by
  have hfits : a.toNat * b.toNat < 2 ^ (32 + 32) := by
    rw [pow_add]
    exact Nat.mul_lt_mul'' a.isLt b.isLt
  rw [← toNat_append_eq_mul_add, highWord_append_lowWord, productUnsigned, BitVec.toNat_ofNat, Nat.mod_eq_of_lt hfits]

theorem productSigned_toInt (a b : Word) :
    (highWord (productSigned a b)).toInt * 2 ^ 32 + ((lowWord (productSigned a b)).toNat : Int) =
      a.toInt * b.toInt := by
  have hlow : -2 ^ 62 ≤ a.toInt * b.toInt := BitVec.le_toInt_mul_toInt
  have hhigh : a.toInt * b.toInt ≤ 2 ^ 62 := BitVec.toInt_mul_toInt_le
  rw [← toInt_append_word, highWord_append_lowWord]
  exact BitVec.toInt_ofInt_eq_self (by decide) (by omega) (by omega)

/-- Settles O15: the end of a multiplication at the exact product. -/
theorem products : Obligations.Products := by
  intro s rd ro1 o
  rw [← s.op2Unsigned_toNat, ← s.op2_toInt]
  obtain ⟨tu, hu, hwu⟩ := s.product_writes rd (productUnsigned (s.reg ro1) (s.op2Unsigned o))
  obtain ⟨ts, hs, hws⟩ := s.product_writes rd (productSigned (s.reg ro1) (s.op2 o))
  exact ⟨decode_operand rfl rd ro1 o, ⟨tu, _, _, hu, hwu, productUnsigned_toNat _ _⟩,
    decode_operand rfl rd ro1 o, ⟨ts, _, _, hs, hws, productSigned_toInt _ _⟩⟩

/-- Settles O16: as O15, with the codes of the low word. -/
theorem productsWithCodes : Obligations.ProductsWithCodes := by
  intro s rd ro1 o
  rw [← s.op2Unsigned_toNat, ← s.op2_toInt]
  obtain ⟨tu, hu, hwu⟩ := s.productCodes_writes rd (productUnsigned (s.reg ro1) (s.op2Unsigned o))
  obtain ⟨ts, hs, hws⟩ := s.productCodes_writes rd (productSigned (s.reg ro1) (s.op2 o))
  rw [msb_eq_bit31, beq_eq_decide] at hwu hws
  exact ⟨decode_operand rfl rd ro1 o, ⟨tu, _, _, hu, hwu, productUnsigned_toNat _ _⟩,
    decode_operand rfl rd ro1 o, ⟨ts, _, _, hs, hws, productSigned_toInt _ _⟩⟩

end Sys2Proof.Machine
end

section
/-! PROOFS. Division: O17, O18, O19, O20. What a division leaves is pinned by the division identity, the size and the
sign of the remainder, so the model's quotient is the one the statements speak of. -/
namespace Sys2Proof.Machine

/-! ### The dividend (R202) -/

theorem State.dividend_toNat (s : State) (ro1 : RegNum) :
    (s.dividend ro1).toNat = s.y.toNat * 2 ^ 32 + (s.reg ro1).toNat :=
  toNat_append_eq_mul_add s.y (s.reg ro1)

theorem State.dividend_toInt (s : State) (ro1 : RegNum) :
    (s.dividend ro1).toInt = s.y.toInt * 2 ^ 32 + ((s.reg ro1).toNat : Int) :=
  toInt_append_word s.y (s.reg ro1)

/-- The dividend has the sign of Y. -/
theorem State.dividend_toInt_neg_iff (s : State) (ro1 : RegNum) : (s.dividend ro1).toInt < 0 ↔ s.y.toInt < 0 := by
  have hlow := (s.reg ro1).isLt
  rw [s.dividend_toInt]
  omega

/-! ### Quotient and remainder (R203, R205, R206) -/

theorem ne_zero_of_toNat_lt {m d : Word} (h : m.toNat < d.toNat) : d ≠ 0 := by
  rintro rfl
  exact Nat.not_lt_zero _ h

/-- A dividend below `d * 2 ^ 32` has a quotient and a remainder of 32 bits. -/
theorem exists_quotient_remainder {dividend : BitVec 64} {d : Word} (h : dividend.toNat < d.toNat * 2 ^ 32) :
    ∃ q m : Word, dividend.toNat = q.toNat * d.toNat + m.toNat ∧ m.toNat < d.toNat := by
  have hpos : 0 < d.toNat := by omega
  have hq : dividend.toNat / d.toNat < 2 ^ 32 := (Nat.div_lt_iff_lt_mul hpos).mpr (by omega)
  have hm : dividend.toNat % d.toNat < d.toNat := Nat.mod_lt _ hpos
  refine ⟨BitVec.ofNatLT _ hq, BitVec.ofNatLT _ (hm.trans d.isLt), ?_, ?_⟩
  · rw [BitVec.toNat_ofNatLT, BitVec.toNat_ofNatLT, Nat.div_add_mod']
  · rwa [BitVec.toNat_ofNatLT]

theorem divideUnsigned_of_fits {dividend : BitVec 64} {d q m : Word}
    (h : dividend.toNat = q.toNat * d.toNat + m.toNat) (hm : m.toNat < d.toNat) :
    divideUnsigned dividend d = quotientValue q m := by
  obtain ⟨hq, hr⟩ : dividend.toNat / d.toNat = q.toNat ∧ dividend.toNat % d.toNat = m.toNat :=
    (Nat.div_mod_unique (by omega)).mpr ⟨by rw [h, mul_comm, add_comm], hm⟩
  rw [divideUnsigned, hq, hr, if_pos q.isLt, BitVec.ofNat_toNat, BitVec.ofNat_toNat, BitVec.setWidth_eq,
    BitVec.setWidth_eq]

theorem divideUnsigned_of_overflow {dividend : BitVec 64} {d : Word} (hd : d ≠ 0)
    (h : d.toNat * 2 ^ 32 ≤ dividend.toNat) : divideUnsigned dividend d = Config.divOverflow false dividend d := by
  have hpos : 0 < d.toNat := Nat.pos_of_ne_zero fun h0 => hd (BitVec.eq_of_toNat_eq h0)
  rw [divideUnsigned, if_neg]
  rw [Nat.div_lt_iff_lt_mul hpos]
  omega

/-- The truncating quotient is the one whose remainder is smaller than the divisor and has the dividend's sign
(decision D15; log entry 15). -/
theorem tdiv_tmod_of_sign {a d q m : Int} (h : a = q * d + m) (hm : m.natAbs < d.natAbs)
    (hsign : m = 0 ∨ (m < 0 ↔ a < 0)) : a.tdiv d = q ∧ a.tmod d = m := by
  have hd : d ≠ 0 := by omega
  have heq : m + d * q = a := by rw [h, mul_comm, add_comm]
  rcases lt_or_ge a 0 with ha | ha
  · exact (Int.tdiv_tmod_unique' ha.le hd).mpr ⟨heq, by omega, by omega⟩
  · exact (Int.tdiv_tmod_unique ha hd).mpr ⟨heq, by omega, by omega⟩

theorem divideSigned_of_fits {dividend : BitVec 64} {d : Word} {q m : Int} (h : dividend.toInt = q * d.toInt + m)
    (hm : m.natAbs < d.toInt.natAbs) (hsign : m = 0 ∨ (m < 0 ↔ dividend.toInt < 0)) (hlow : -2 ^ 31 ≤ q)
    (hhigh : q ≤ 2 ^ 31 - 1) :
    divideSigned dividend d = quotientValue (BitVec.ofInt 32 q) (BitVec.ofInt 32 m) := by
  obtain ⟨hq, hr⟩ := tdiv_tmod_of_sign h hm hsign
  rw [divideSigned, hq, hr, if_pos ⟨hlow, hhigh⟩]

theorem divideSigned_of_overflow {dividend : BitVec 64} {d : Word}
    (h : dividend.toInt.tdiv d.toInt < -2 ^ 31 ∨ 2 ^ 31 - 1 < dividend.toInt.tdiv d.toInt) :
    divideSigned dividend d = Config.divOverflow true dividend d := by
  rw [divideSigned, if_neg]
  omega

/-! ### The codes of a quotient that fits (R180, decision D17; log entry 16) -/

theorem msb_ofInt {q : Int} (hlow : -2 ^ 31 ≤ q) (hhigh : q ≤ 2 ^ 31 - 1) :
    (BitVec.ofInt 32 q).msb = decide (q < 0) := by
  rw [BitVec.msb_eq_toInt, BitVec.toInt_ofInt_eq_self (by decide) hlow (by omega)]

theorem ofInt_eq_zero_iff {q : Int} (hlow : -2 ^ 31 ≤ q) (hhigh : q ≤ 2 ^ 31 - 1) : BitVec.ofInt 32 q = 0 ↔ q = 0 := by
  rw [← BitVec.toInt_inj, BitVec.toInt_ofInt_eq_self (by decide) hlow (by omega)]
  rfl

/-! ### The ends of a division (R203 to R208) -/

section
variable {s : State} (rd : RegNum) {ro1 : RegNum} {o : Operand2} {v : Config.DivValue}

/-- `udiv` writes the quotient and the remainder of its division and nothing else, `udivcc` its codes too. -/
theorem udivs_write (hd : s.op2Unsigned o ≠ 0) (hv : divideUnsigned (s.dividend ro1) (s.op2Unsigned o) = v) :
    (∃ t, exec (.udiv rd ro1 o) s = .next t ∧ WritesWithY s t rd v.quotient v.remainder) ∧
      ∃ t, exec (.udivcc rd ro1 o) s = .next t ∧
        WritesWithYCodes s t rd v.quotient v.remainder v.n v.z v.v v.c := by
  subst hv
  exact ⟨s.division_writes rd hd _, s.divisionCodes_writes rd hd _⟩

/-- `sdiv` writes the quotient and the remainder of its division and nothing else, `sdivcc` its codes too. -/
theorem sdivs_write (hd : s.op2 o ≠ 0) (hv : divideSigned (s.dividend ro1) (s.op2 o) = v) :
    (∃ t, exec (.sdiv rd ro1 o) s = .next t ∧ WritesWithY s t rd v.quotient v.remainder) ∧
      ∃ t, exec (.sdivcc rd ro1 o) s = .next t ∧
        WritesWithYCodes s t rd v.quotient v.remainder v.n v.z v.v v.c := by
  subst hv
  exact ⟨s.division_writes rd hd _, s.divisionCodes_writes rd hd _⟩

/-- A zero divisor traps whatever the value would be (R207; log entry 41). -/
theorem State.divisions_trap (s : State) {d : Word} (hd : d = 0) (v : Config.DivValue) :
    Raises s (s.division rd d v) 0x2A ∧ Raises s (s.divisionCodes rd d v) 0x2A := by
  rw [State.division, State.divisionCodes, if_pos hd, if_pos hd]
  exact ⟨raises_raise s .divisionByZero, raises_raise s .divisionByZero⟩

end

/-! ### The obligations -/

/-- Settles O17: `u(Y) < d` keeps the dividend below `d * 2 ^ 32`, so the quotient has 32 bits. -/
theorem unsignedDivision : Obligations.UnsignedDivision := by
  rintro s rd ro1 o _ rfl hfits
  rw [← s.op2Unsigned_toNat] at hfits ⊢
  have hbound : (s.dividend ro1).toNat < (s.op2Unsigned o).toNat * 2 ^ 32 := by
    rw [s.dividend_toNat]
    omega
  obtain ⟨q, m, hidentity, hm⟩ := exists_quotient_remainder hbound
  have hwrites := udivs_write rd (ne_zero_of_toNat_lt hm) (divideUnsigned_of_fits hidentity hm)
  simp only [quotientValue, msb_eq_bit31, beq_eq_decide] at hwrites
  rw [s.dividend_toNat] at hidentity
  exact ⟨q, m, hidentity, hm, hwrites⟩

/-- Settles O18: the quotient and remainder of the statement are the model's. -/
theorem signedDivision : Obligations.SignedDivision := by
  rintro s rd ro1 o _ q m rfl hidentity hm hsign hlow hhigh
  rw [← s.op2_toInt] at hidentity hm
  rw [← s.dividend_toInt] at hidentity
  rw [← s.dividend_toInt_neg_iff ro1] at hsign
  have hd : s.op2 o ≠ 0 := by
    intro h0
    rw [h0] at hm
    exact Nat.not_lt_zero _ hm
  have hwrites := sdivs_write rd hd (divideSigned_of_fits hidentity hm hsign hlow hhigh)
  simp only [quotientValue, msb_ofInt hlow hhigh, beq_eq_decide, ofInt_eq_zero_iff hlow hhigh] at hwrites
  exact hwrites

/-- Settles O19: where the quotient does not fit, the model's value is the free one. -/
theorem divisionOverflow : Obligations.DivisionOverflow := by
  intro s rd ro1 o free
  refine ⟨?unsigned, ?signed⟩
  case unsigned =>
    rintro hd hover rfl
    have hbound : (s.op2Unsigned o).toNat * 2 ^ 32 ≤ (s.dividend ro1).toNat := by
      rw [s.dividend_toNat]
      omega
    exact udivs_write rd hd (divideUnsigned_of_overflow hd hbound)
  case signed =>
    rintro hd hover rfl
    exact sdivs_write rd hd (divideSigned_of_overflow hover)

/-- Settles O20. -/
theorem divisionByZeroTraps : Obligations.DivisionByZeroTraps := fun s rd _ _ =>
  ⟨fun hd => s.divisions_trap rd hd _, fun hd => s.divisions_trap rd hd _⟩

end Sys2Proof.Machine
end

section
/-! PROOFS. `jmp`, `rett` and `call`, and the return from a trap handler: O26, O27, O28, O43. -/
namespace Sys2Proof.Machine

/-! ### `jmp` and `rett` by the alignment of the target -/

/-- `jmp` to an address that is not a multiple of 4 (R262). -/
theorem execJmp_misaligned {s : State} {rd ro1 : RegNum} {o : Operand2} (h : (s.sum ro1 o).toNat % 4 ≠ 0) :
    execJmp rd ro1 o s = raise .addressNotAligned s := by
  rw [execJmp, wordAligned_eq, if_neg (by simpa using h)]

/-- `rett` in supervisor mode to a multiple of 4 (R264). -/
theorem execRett_aligned {s : State} {ro1 : RegNum} {o : Operand2} (hs : s.psr.s = true)
    (h : (s.sum ro1 o).toNat % 4 = 0) : execRett ro1 o s = .next (s.returnFromTrap (s.sum ro1 o)) := by
  rw [execRett, privileged_supervisor hs, wordAligned_eq, if_pos (decide_eq_true h)]

/-- `rett` in supervisor mode to an address that is not a multiple of 4 (R265). -/
theorem execRett_misaligned {s : State} {ro1 : RegNum} {o : Operand2} (hs : s.psr.s = true)
    (h : (s.sum ro1 o).toNat % 4 ≠ 0) : execRett ro1 o s = raise .addressNotAligned s := by
  rw [execRett, privileged_supervisor hs, wordAligned_eq, if_neg (by simpa using h)]

/-- Settles O26. -/
theorem misalignedTargetsTrap : Obligations.MisalignedTargetsTrap := by
  intro s rd ro1 o h
  have hraises := raises_raise s .addressNotAligned
  refine ⟨?jmp, fun hs => ?rett⟩
  case jmp => rwa [← execJmp_misaligned (rd := rd) h] at hraises
  case rett => rwa [← execRett_misaligned hs h] at hraises

/-- Settles O28: the window above is CWP + 1 on five bits, and `returnFromTrap` changes PSR and the counters alone. -/
theorem returnFromTrapResult : Obligations.ReturnFromTrapResult := by
  rintro s ro1 o target hs rfl h
  have hcwp : (s.psr.cwp + 1).toNat = (s.psr.cwp.toNat + 1) % 32 := BitVec.toNat_add _ _
  exact ⟨_, execRett_aligned hs h, hcwp, rfl, rfl, rfl, rfl, ⟨rfl, rfl, rfl, rfl⟩, .of_eq rfl rfl, rfl,
    ⟨rfl, rfl, rfl, rfl⟩, .of_eq rfl rfl, ⟨rfl, rfl, rfl, rfl⟩, ⟨rfl, rfl⟩⟩

/-! ### `call` -/

/-- The offset of `call` as the number of R126. -/
theorem callOffset_eq_ofInt (d : BitVec 30) : callOffset d = BitVec.ofInt 32 (4 * d.toInt) := by
  rw [callOffset, BitVec.signExtend, BitVec.ofInt_mul, mul_comm]
  rfl

/-- Settles O27. -/
theorem callResult : Obligations.CallResult := by
  intro s d
  rw [← callOffset_eq_ofInt]
  exact ⟨decode_call d, _, rfl, s.setReg_jumpTo_frame 15 s.pc _⟩

/-! ### The return from a handler (R266) -/

/-- A sum with the constant 0 is the register (R122). -/
theorem State.sum_imm_zero (s : State) (i : RegNum) : s.sum i (.imm 0) = s.reg i :=
  BitVec.add_zero _

/-- `jmp %g0, i, 0` to a multiple of 4 writes no register (R24, R261). -/
theorem execJmp_register {s : State} {i : RegNum} {a : Word} (hi : s.reg i = a) (ha : a.toNat % 4 = 0) :
    execJmp 0 i (.imm 0) s = .next (s.jumpTo a) := by
  have hsum : s.sum i (.imm 0) = a := (s.sum_imm_zero i).trans hi
  have hreg : s.setReg 0 a = s := s.setReg_zero a
  rw [execJmp_aligned (hsum.symm ▸ ha), hsum, hreg]

/-- `rett i, 0` in supervisor mode to a multiple of 4 (R264). -/
theorem execRett_register {s : State} {i : RegNum} {a : Word} (hs : s.psr.s = true) (hi : s.reg i = a)
    (ha : a.toNat % 4 = 0) : execRett i (.imm 0) s = .next (s.returnFromTrap a) := by
  have hsum : s.sum i (.imm 0) = a := (s.sum_imm_zero i).trans hi
  rw [execRett_aligned hs (hsum.symm ▸ ha), hsum]

/-- The return sequence undoes trap entry in PSR: all but PS, when traps were enabled (R264, R420). -/
theorem TrapEntered.psr_returnFromTrap {s t : State} {tt : BitVec 8} (h : TrapEntered s t tt) (het : s.psr.et = true)
    (a : Word) : (t.returnFromTrap a).psr = { s.psr with ps := s.psr.s } := by
  have hwindow : t.psr.cwp + 1 = s.psr.cwp := by rw [h.cwp, BitVec.sub_add_cancel]
  simp only [State.returnFromTrap_psr, hwindow, h.ps, h.pil, h.codes.n, h.codes.z, h.codes.v, h.codes.c, het]

/-- Settles O43: trap entry leaves both counters in `%l1` and `%l2` of its window, `jmp` and `rett` load them from there
without touching a register, and the frame is that of trap entry. -/
theorem handlerReturns : Obligations.HandlerReturns := by
  intro s tt het hpc hnpc
  have entered := s.takeTrap_entered tt
  have hjmp : exec (.jmp 0 17 (.imm 0)) (s.takeTrap tt) = .next ((s.takeTrap tt).jumpTo s.pc) :=
    execJmp_register entered.savedPc hpc
  have hsaved : ((s.takeTrap tt).jumpTo s.pc).reg 18 = s.npc :=
    (State.reg_congr rfl rfl rfl 18).trans entered.savedNpc
  have hrett : exec (.rett 18 (.imm 0)) ((s.takeTrap tt).jumpTo s.pc) =
      .next (((s.takeTrap tt).jumpTo s.pc).returnFromTrap s.npc) :=
    execRett_register entered.sup hsaved hnpc
  exact ⟨_, _, _, raise_enabled het tt, hjmp, hrett, rfl, rfl, entered.psr_returnFromTrap het s.npc, entered.y,
    entered.wim, entered.base, entered.limite, entered.tba, ⟨entered.memory.bytes, entered.memory.devices⟩,
    ⟨entered.rest.errorMode, entered.rest.irq, entered.rest.platform, entered.rest.inputs⟩, entered.glob, entered.win⟩

end Sys2Proof.Machine
end

section
/-! PROOFS. The window moves: O29, O30. -/
namespace Sys2Proof.Machine

/-! ### The windows next to the current one, as numbers -/

/-- The window below, modulo 32 (R276). -/
theorem windowBelow_toNat (w : BitVec 5) : (w - 1).toNat = (w.toNat + 31) % 32 := by
  rw [BitVec.toNat_sub, Nat.add_comm]
  rfl

/-- The window above, modulo 32 (R277). -/
theorem windowAbove_toNat (w : BitVec 5) : (w + 1).toNat = (w.toNat + 1) % 32 :=
  BitVec.toNat_add w 1

/-! ### A window move by the WIM bit of the new window -/

/-- A register write that starts in another window, seen from the state before the move: the window pointer is the one
field besides `rd` and the counters that changes (R27, R276). -/
theorem WritesOnly.before_setCwp {s t : State} {w : BitVec 5} {rd : RegNum} {v : Word}
    (h : WritesOnly (s.setCwp w) t rd v) :
    t.psr.cwp = w ∧ OnlyRegister s t w rd v ∧ KeepsCodes s t ∧ t.y = s.y ∧ KeepsOthers s t ∧ Sequential s t := by
  obtain ⟨reg, codes, cwp, y, ⟨mode, special, memory, rest⟩, counters⟩ := h
  exact ⟨cwp, reg.congr rfl rfl rfl rfl, ⟨codes.n, codes.z, codes.v, codes.c⟩, y,
    ⟨⟨mode.pil, mode.sup, mode.ps, mode.et⟩, ⟨special.wim, special.tbr, special.base, special.limite⟩,
      ⟨memory.bytes, memory.devices⟩, ⟨rest.errorMode, rest.irq, rest.platform, rest.inputs⟩⟩,
    ⟨counters.pc, counters.npc⟩⟩

section

variable {s : State} {w : BitVec 5} (tt : TrapType) (rd ro1 : RegNum) (o : Operand2)

/-- To a valid window: the sum of the old window's operands goes to `rd` of the new one (R276, R277). -/
theorem moveWindow_of_valid (h : s.windowInvalid w = false) :
    moveWindow tt w rd ro1 o s = (s.setCwp w).result rd (s.sum ro1 o) := by
  simp [moveWindow, h]

/-- To an invalid window: the trap, raised in the old window (R278). -/
theorem moveWindow_of_invalid (h : s.windowInvalid w = true) : moveWindow tt w rd ro1 o s = raise tt s := by
  simp [moveWindow, h]

/-- What `save` and `restore` share, the new window being a number as in R276 to R278. -/
theorem moveWindow_by_wim {n : Nat} (hn : n = w.toNat) :
    (s.wim.getLsbD n = false →
      ∃ t, moveWindow tt w rd ro1 o s = .next t ∧ t.psr.cwp = BitVec.ofNat 5 n ∧
        OnlyRegister s t (BitVec.ofNat 5 n) rd (s.reg ro1 + s.op2 o) ∧ KeepsCodes s t ∧ t.y = s.y ∧
        KeepsOthers s t ∧ Sequential s t) ∧
    (s.wim.getLsbD n = true → Raises s (moveWindow tt w rd ro1 o s) tt.code) := by
  subst hn
  rw [BitVec.ofNat_toNat, BitVec.setWidth_eq]
  refine ⟨fun hvalid => ?valid, fun hinvalid => ?invalid⟩
  case valid =>
    obtain ⟨t, ht, hwrites⟩ := (s.setCwp w).result_writesOnly rd (s.sum ro1 o)
    exact ⟨t, (moveWindow_of_valid tt rd ro1 o hvalid).trans ht, hwrites.before_setCwp⟩
  case invalid =>
    rw [moveWindow_of_invalid tt rd ro1 o hinvalid]
    exact raises_raise s tt

end

/-! ### The obligations -/

/-- Settles O29: `save` moves to CWP - 1 on five bits. -/
theorem saveResult : Obligations.SaveResult := by
  intro s rd ro1 o w hw
  have hbelow : w = (s.psr.cwp - 1).toNat := hw.trans (windowBelow_toNat _).symm
  exact ⟨decode_operand rfl rd ro1 o, moveWindow_by_wim .windowOverflow rd ro1 o hbelow⟩

/-- Settles O30: `restore` moves to CWP + 1 on five bits. -/
theorem restoreResult : Obligations.RestoreResult := by
  intro s rd ro1 o w hw
  have habove : w = (s.psr.cwp + 1).toNat := hw.trans (windowAbove_toNat _).symm
  exact ⟨decode_operand rfl rd ro1 o, moveWindow_by_wim .windowUnderflow rd ro1 o habove⟩

end Sys2Proof.Machine
end

section
/-! PROOFS. The software traps: O31, O32. -/
namespace Sys2Proof.Machine

/-! ### The trap type of a software trap -/

/-- TN, the low seven bits of the sum, as a number (R287). -/
theorem State.trapNumber_toNat (s : State) (ro1 : RegNum) (o : Operand2) :
    (s.trapNumber ro1 o).toNat = (s.sum ro1 o).toNat % 128 := by
  rw [State.trapNumber, BitVec.extractLsb'_toNat, Nat.shiftRight_zero]

/-- The bit set before TN counts 0x80 (R415). -/
theorem code_trapInstruction (tn : BitVec 7) :
    (TrapType.trapInstruction tn).code = BitVec.ofNat 8 (0x80 + tn.toNat) := by
  have hcode : (TrapType.trapInstruction tn).code.toNat = 0x80 + tn.toNat := toNat_append_eq_mul_add 1#1 tn
  rw [← hcode, BitVec.ofNat_toNat, BitVec.setWidth_eq]

/-! ### Every software trap by its condition -/

/-- The software trap by its condition (R288). -/
theorem exec_softTrapOf (c : Cond) (ro1 : RegNum) (o : Operand2) (s : State) :
    exec (softTrapOf c ro1 o) s = trapOn c ro1 o s := by
  cases c <;> rfl

section

variable {c : Cond} {s : State} (ro1 : RegNum) (o : Operand2)

/-- The trap of R288 on a condition that holds. -/
theorem trapOn_of_true (h : condTrue c s.psr = true) :
    trapOn c ro1 o s = raise (.trapInstruction (s.trapNumber ro1 o)) s := by
  rw [trapOn, if_pos h]

/-- No effect but on the counters on a condition that does not hold (R289(g)). -/
theorem trapOn_of_false (h : condTrue c s.psr = false) : trapOn c ro1 o s = .next s.advance := by
  rw [trapOn, h, if_neg Bool.false_ne_true]

end

/-! ### The obligations -/

/-- Settles O31: the trap raised is `trap_instruction` with the number TN, whose type is 0x80 + TN. -/
theorem softwareTrapTaken : Obligations.SoftwareTrapTaken := by
  intro c s ro1 o hcond
  have hraises := raises_raise s (.trapInstruction (s.trapNumber ro1 o))
  rwa [code_trapInstruction, s.trapNumber_toNat, ← trapOn_of_true ro1 o hcond, ← exec_softTrapOf] at hraises

/-- Settles O32: the next state is `advance`, which changes the counters alone. -/
theorem softwareTrapNotTaken : Obligations.SoftwareTrapNotTaken := by
  intro c s ro1 o hcond
  have hnext : exec (softTrapOf c ro1 o) s = .next s.advance :=
    (exec_softTrapOf c ro1 o s).trans (trapOn_of_false ro1 o hcond)
  exact ⟨s.advance, hnext, .of_counters s _ _, ⟨rfl, rfl⟩⟩

end Sys2Proof.Machine
end

section
/-! PROOFS. `nop`: O23. -/
namespace Sys2Proof.Machine

/-- The word of `nop` (R310) is the encoder's, so the decoder gives the instruction back. -/
theorem decode_nop : decode 0x01000000 = .instr .nop :=
  decodeInvertsEncode .nop rfl

/-- `nop` steps the counters, whatever the state (R310). -/
theorem exec_nop (s : State) : exec .nop s = .next s.advance :=
  rfl

/-- Settles O23: the next state is `advance`, which changes the counters alone. -/
theorem nopResult : Obligations.NopResult :=
  ⟨decode_nop, fun s => ⟨s.advance, exec_nop s, .of_counters s _ _, ⟨rfl, rfl⟩⟩⟩

end Sys2Proof.Machine
end

section
/-! PROOFS. The writes of Y, BASE, LIMITE, WIM and TBR: O34. -/
namespace Sys2Proof.Machine

/-- A write of TBR takes bits 31..12 of the word as the base of the trap table (R325). -/
theorem Tbr.write_tba_toNat (t : Tbr) (w : Word) : (t.write w).tba.toNat = w.toNat / 4096 := by
  have hlt := w.isLt
  rw [Tbr.write, BitVec.extractLsb'_toNat, Nat.shiftRight_eq_div_pow]
  omega

/-- A write of TBR keeps the type of the last trap (R325, decision D25). -/
@[simp] theorem Tbr.write_tt (t : Tbr) (w : Word) : (t.write w).tt = t.tt :=
  rfl

/-- New values of the four special registers and the sequential end of the instruction change nothing else (R32). -/
theorem State.setSpecial_advance_frame (s : State) (wim base limite : Word) (tbr : Tbr) {t : State}
    (ht : t = { s with wim := wim, base := base, limite := limite, tbr := tbr }.advance) :
    t.y = s.y ∧ t.psr = s.psr ∧ KeepsRegisters s t ∧ KeepsMemory s t ∧ KeepsRest s t ∧ Sequential s t := by
  subst ht
  exact ⟨rfl, rfl, .of_eq rfl rfl, .of_eq rfl rfl, ⟨rfl, rfl, rfl, rfl⟩, ⟨rfl, rfl⟩⟩

/-- A new Y and the sequential end of the instruction change nothing else (R32, R44). -/
theorem State.setY_advance_frame (s : State) (v : Word) {t : State} (ht : t = { s with y := v }.advance) :
    t.y = v ∧ KeepsRegisters s t ∧ KeepsCodes s t ∧ t.psr.cwp = s.psr.cwp ∧ KeepsOthers s t ∧ Sequential s t := by
  subst ht
  exact ⟨rfl, .of_eq rfl rfl, .of_eq rfl, rfl,
    ⟨.of_eq rfl, ⟨rfl, rfl, rfl, rfl⟩, .of_eq rfl rfl, ⟨rfl, rfl, rfl, rfl⟩⟩, ⟨rfl, rfl⟩⟩

/-- Settles O34: each write replaces its one register and advances; the four privileged ones pass their check in
supervisor mode. -/
theorem stateRegisterWrites : Obligations.StateRegisterWrites := by
  rintro s ro1 o v rfl
  refine ⟨⟨_, rfl, s.setY_advance_frame _ rfl⟩, fun hs => ⟨?base, ?limite, ?wim, ?tbr⟩⟩
  case base | limite | wim =>
    exact ⟨_, privileged_supervisor hs _, rfl, rfl, rfl, rfl, s.setSpecial_advance_frame _ _ _ _ rfl⟩
  case tbr =>
    exact ⟨_, privileged_supervisor hs _, s.tbr.write_tba_toNat _, s.tbr.write_tt _, rfl, rfl, rfl,
      s.setSpecial_advance_frame _ _ _ _ rfl⟩

end Sys2Proof.Machine
end

section
/-! PROOFS. User mode and the ways between the modes: O36, O55, O57. -/
namespace Sys2Proof.Machine

/-! ### What raising a trap leads to -/

/-- The two states that raising a trap leads to (R420, R424). -/
theorem raise_next {s t : State} {tt : TrapType} (h : raise tt s = .next t) :
    (s.psr.et = true ∧ TrapEntered s t t.tbr.tt) ∨ (s.psr.et = false ∧ t = { s with errorMode := true }) := by
  rcases raise_cases tt s with ⟨het, e⟩ | ⟨het, e⟩ <;> rw [e] at h <;> cases h
  · have entered := s.takeTrap_entered tt
    exact .inl ⟨het, entered.trapType.symm ▸ entered⟩
  · exact .inr ⟨het, rfl⟩

/-- No raised trap leaves supervisor mode. -/
theorem raise_keeps_supervisor {s t : State} {tt : TrapType} (hs : s.psr.s = true) (h : raise tt s = .next t) :
    t.psr.s = true := by
  rcases raise_next h with ⟨-, entered⟩ | ⟨-, rfl⟩
  · exact entered.sup
  · exact hs

/-! ### The privileged instructions (R441) -/

/-- A privileged instruction is the check of R441 before its effect, and only those of `rett` and `wr %psr` can change
PSR. -/
theorem exec_of_isPrivileged {i : Instr} (hi : isPrivileged i = true) (s : State) :
    ∃ k, exec i s = privileged s k ∧
      ((∃ ro1 o, i = .rett ro1 o) ∨ (∃ ro1 o, i = .wrPsr ro1 o) ∨ ∃ u, k = .next u ∧ u.psr = s.psr) := by
  cases i
  case rett ro1 o => exact ⟨_, rfl, .inl ⟨ro1, o, rfl⟩⟩
  case wrPsr ro1 o => exact ⟨_, rfl, .inr (.inl ⟨ro1, o, rfl⟩)⟩
  case rdPsr | rdWim | rdTbr | rdBase | rdLimite => exact ⟨_, rfl, .inr (.inr ⟨_, rfl, s.setReg_psr _ _⟩)⟩
  case wrWim | wrTbr | wrBase | wrLimite => exact ⟨_, rfl, .inr (.inr ⟨_, rfl, rfl⟩)⟩
  all_goals cases hi

/-- In user mode a privileged instruction is the trap of R441 alone. -/
theorem exec_privileged_user {i : Instr} {s : State} (hi : isPrivileged i = true) (hs : s.psr.s = false) :
    exec i s = raise .privilegedInstruction s := by
  obtain ⟨k, hexec, -⟩ := exec_of_isPrivileged hi s
  rw [hexec, privileged_user hs]

/-- Settles O36: the check of R441 fails before anything else is done. -/
theorem privilegedInstructionsTrap : Obligations.PrivilegedInstructionsTrap := by
  intro i s hi hs
  rw [exec_privileged_user hi hs]
  exact raises_raise s .privilegedInstruction

/-! ### User mode -/

/-- In user mode an instruction raises a trap, or completes in the frame of one that is not privileged. -/
theorem exec_user_cases {i : Instr} {s t : State} (hs : s.psr.s = false) (h : exec i s = .next t) :
    (∃ tt, raise tt s = .next t) ∨ (isPrivileged i = false ∧ InstrFrame i s t) := by
  cases hi : isPrivileged i with
  | true => exact .inl ⟨.privilegedInstruction, (exec_privileged_user hi hs).symm.trans h⟩
  | false => exact ((exec_trapsOrKeeps i s).cases t h).imp_right fun hframe => ⟨rfl, hframe⟩

/-- Settles O55: trap entry leaves user mode and keeps the protection registers; error mode needs traps disabled; and an
instruction that completes in user mode has the frame of one that is not privileged. -/
theorem userModeCannotChangeProtection : Obligations.UserModeCannotChangeProtection := by
  intro i s t hs h
  rcases exec_user_cases hs h with ⟨tt, hraise⟩ | ⟨hi, hframe⟩
  · rcases raise_next hraise with ⟨-, entered⟩ | ⟨het, rfl⟩
    · exact ⟨entered.base, entered.limite, entered.wim, entered.tba, entered.pil,
        fun huser => absurd (huser.symm.trans entered.sup) Bool.false_ne_true, fun _ => entered.rest.errorMode⟩
    · exact ⟨rfl, rfl, rfl, rfl, rfl, fun _ => ⟨rfl, rfl, rfl⟩,
        fun henabled => absurd (het.symm.trans henabled) Bool.false_ne_true⟩
  · have hmode := hframe.mode hi
    have hspecial := hframe.special hi
    exact ⟨hspecial.base, hspecial.limite, hspecial.wim, congrArg Tbr.tba hspecial.tbr, hmode.pil,
      fun _ => ⟨hmode.et, hmode.ps, congrArg Tbr.tt hspecial.tbr⟩, fun _ => hframe.rest.errorMode⟩

/-! ### Into and out of supervisor mode (R443) -/

/-- An instruction that ends user mode enters a trap. -/
theorem exec_enters_supervisor {i : Instr} {s t : State} (h : exec i s = .next t) (hs : s.psr.s = false)
    (ht : t.psr.s = true) : TrapEntered s t t.tbr.tt := by
  have hne : t.psr.s ≠ s.psr.s := by simp [hs, ht]
  rcases exec_user_cases hs h with ⟨tt, hraise⟩ | ⟨hi, hframe⟩
  · rcases raise_next hraise with ⟨-, entered⟩ | ⟨-, rfl⟩
    · exact entered
    · exact absurd rfl hne
  · exact absurd (hframe.mode hi).sup hne

/-- `rett` leaves supervisor mode with PS = 0 alone (R264). -/
theorem execRett_leaves_supervisor {s t : State} {ro1 : RegNum} {o : Operand2} (h : execRett ro1 o s = .next t)
    (hs : s.psr.s = true) (ht : t.psr.s = false) : s.psr.ps = false := by
  by_cases haligned : (s.sum ro1 o).toNat % 4 = 0
  · rw [execRett_aligned hs haligned] at h
    cases h
    exact ht
  · rw [execRett_misaligned hs haligned] at h
    exact absurd (ht.symm.trans (raise_keeps_supervisor hs h)) Bool.false_ne_true

/-- `wr %psr` leaves supervisor mode with bit 7 of the value 0 alone (R323). -/
theorem execWrPsr_leaves_supervisor {s t : State} {ro1 : RegNum} {o : Operand2} (h : execWrPsr ro1 o s = .next t)
    (hs : s.psr.s = true) (ht : t.psr.s = false) : (s.xorValue ro1 o).getLsbD 7 = false := by
  rw [execWrPsr_supervisor hs] at h
  cases h
  exact ht

/-- An instruction that leaves supervisor mode is privileged: the others keep the mode or raise a trap. -/
theorem isPrivileged_of_leaves_supervisor {i : Instr} {s t : State} (h : exec i s = .next t) (hs : s.psr.s = true)
    (ht : t.psr.s = false) : isPrivileged i = true := by
  have hleaves : ¬ t.psr.s = true := by simp [ht]
  rcases (exec_trapsOrKeeps i s).cases t h with ⟨tt, hraise⟩ | hframe
  · exact absurd (raise_keeps_supervisor hs hraise) hleaves
  · by_contra hi
    exact hleaves ((hframe.mode (Bool.eq_false_of_not_eq_true hi)).sup.trans hs)

/-- Settles O57: into supervisor mode by `exec_enters_supervisor`; out of it by a privileged instruction that can change
PSR. -/
theorem modeTransitions : Obligations.ModeTransitions := by
  refine fun i s t h => ⟨exec_enters_supervisor h, fun hs ht => ?_⟩
  obtain ⟨k, hexec, ⟨ro1, o, rfl⟩ | ⟨ro1, o, rfl⟩ | ⟨u, rfl, hpsr⟩⟩ :=
    exec_of_isPrivileged (isPrivileged_of_leaves_supervisor h hs ht) s
  · exact .inl ⟨ro1, o, rfl, execRett_leaves_supervisor h hs ht⟩
  · exact .inr ⟨ro1, o, rfl, execWrPsr_leaves_supervisor h hs ht⟩
  · rw [hexec, privileged_supervisor hs] at h
    cases h
    rw [hpsr, hs] at ht
    cases ht

end Sys2Proof.Machine
end

section
/-! PROOFS. Trap entry, the interrupts, and error mode: O42, O44, O45, O50. -/
namespace Sys2Proof.Machine

/-! ### Trap entry -/

/-- The trap type of line `n` (R416). -/
theorem code_interruptLevel (n : BitVec 4) :
    (TrapType.interruptLevel n).code = BitVec.ofNat 8 (0x10 + n.toNat) := by
  have hcode : (TrapType.interruptLevel n).code.toNat = 0x10 + n.toNat := toNat_append_eq_mul_add 1#4 n
  rw [← hcode, BitVec.ofNat_toNat, BitVec.setWidth_eq]

/-- Trap entry for line `n` (R416, R420). -/
theorem State.takeTrap_interrupt_entered (s : State) (n : BitVec 4) :
    TrapEntered s (s.takeTrap (.interruptLevel n)) (BitVec.ofNat 8 (0x10 + n.toNat)) := by
  rw [← code_interruptLevel]
  exact s.takeTrap_entered (.interruptLevel n)

/-- Settles O42. -/
theorem trapEntry : Obligations.TrapEntry :=
  ⟨fun tt s _ => raises_raise s tt, fun n s _ _ => s.takeTrap_interrupt_entered n⟩

/-! ### Which line is accepted (R431) -/

section

variable {lines : BitVec 15} {pil : BitVec 4} {n : Nat}

/-- A line that is at 1 and above PIL is the answer; any other leaves the choice to the lines below it (R431). -/
theorem highestLine_succ :
    (lines.getLsbD n = true ∧ pil.toNat < n + 1 ∧ highestLine lines pil (n + 1) = some (BitVec.ofNat 4 (n + 1))) ∨
      ((lines.getLsbD n = true → n + 1 ≤ pil.toNat) ∧ highestLine lines pil (n + 1) = highestLine lines pil n) := by
  by_cases h : lines.getLsbD n = true ∧ pil.toNat < n + 1
  · exact .inl ⟨h.1, h.2, by simp [highestLine, h]⟩
  · refine .inr ⟨fun hline => Nat.le_of_not_lt fun hpil => h ⟨hline, hpil⟩, ?_⟩
    rw [highestLine, if_neg (by simpa using h)]

/-- No line is chosen exactly when none at 1 is above PIL. -/
theorem highestLine_eq_none_iff :
    highestLine lines pil n = none ↔ ∀ k, 1 ≤ k → k ≤ n → lines.getLsbD (k - 1) = true → k ≤ pil.toNat := by
  induction n with
  | zero => exact ⟨fun _ k h1 h0 => by omega, fun _ => rfl⟩
  | succ n ih =>
    rcases highestLine_succ (lines := lines) (pil := pil) (n := n) with ⟨hline, hpil, e⟩ | ⟨hbelow, e⟩ <;> rw [e]
    · simp only [reduceCtorEq, false_iff]
      intro hall
      have hle := hall (n + 1) (by omega) (by omega) hline
      omega
    · rw [ih]
      refine ⟨fun hall k h1 hk hline => ?_, fun hall k h1 hk => hall k h1 (by omega)⟩
      obtain rfl | hlt : k = n + 1 ∨ k ≤ n := by omega
      · exact hbelow hline
      · exact hall k h1 hlt hline

/-- A chosen line is one of those looked at, is at 1 and above PIL, and no higher one is at 1 (R431). -/
theorem of_highestLine_eq_some {m : BitVec 4} (hn : n ≤ 15) (h : highestLine lines pil n = some m) :
    1 ≤ m.toNat ∧ m.toNat ≤ n ∧ lines.getLsbD (m.toNat - 1) = true ∧ pil.toNat < m.toNat ∧
      ∀ k, m.toNat < k → k ≤ n → lines.getLsbD (k - 1) = false := by
  induction n with
  | zero => cases h
  | succ n ih =>
    rcases highestLine_succ (lines := lines) (pil := pil) (n := n) with ⟨hline, hpil, e⟩ | ⟨hbelow, e⟩ <;> rw [e] at h
    · cases h
      have hm : (BitVec.ofNat 4 (n + 1)).toNat = n + 1 := by
        rw [BitVec.toNat_ofNat]
        omega
      rw [hm]
      exact ⟨by omega, le_rfl, hline, hpil, fun k hlow hhigh => by omega⟩
    · obtain ⟨hm1, hmn, hline, hpil, habove⟩ := ih (by omega) h
      refine ⟨hm1, by omega, hline, hpil, fun k hlow hhigh => ?_⟩
      obtain rfl | hlt : k = n + 1 ∨ k ≤ n := by omega
      · by_contra hone
        have hle := hbelow (Bool.eq_true_of_not_eq_false hone)
        omega
      · exact habove k hlow hlt

end

/-- The choice is determined: of two lines that are at 1 with none higher at 1, neither is above the other. -/
theorem highest_line_unique {level : Nat → Bool} {m m' : BitVec 4} (hm : level m.toNat = true)
    (hm' : level m'.toNat = true) (habove : ∀ k, m.toNat < k → k ≤ 15 → level k = false)
    (habove' : ∀ k, m'.toNat < k → k ≤ 15 → level k = false) : m = m' := by
  apply BitVec.eq_of_toNat_eq
  have hnot : ¬ m.toNat < m'.toNat := fun hlt => by simp [habove _ hlt (by omega)] at hm'
  have hnot' : ¬ m'.toNat < m.toNat := fun hlt => by simp [habove' _ hlt (by omega)] at hm
  omega

/-- With traps enabled the choice is among all fifteen lines (R431). -/
theorem State.acceptedInterrupt_enabled {s : State} (het : s.psr.et = true) :
    s.acceptedInterrupt = highestLine s.irq s.psr.pil 15 := by
  rw [State.acceptedInterrupt, if_pos het]

/-- With traps disabled no interrupt is accepted (R431). -/
theorem State.acceptedInterrupt_disabled {s : State} (het : s.psr.et = false) : s.acceptedInterrupt = none := by
  rw [State.acceptedInterrupt, het, if_neg Bool.false_ne_true]

theorem State.acceptedInterrupt_eq_none_iff (s : State) :
    s.acceptedInterrupt = none ↔
      s.psr.et = false ∨ ∀ k, 1 ≤ k → k ≤ 15 → s.irqLine k = true → k ≤ s.psr.pil.toNat := by
  cases het : s.psr.et with
  | false => simp [State.acceptedInterrupt_disabled het]
  | true =>
    rw [State.acceptedInterrupt_enabled het, highestLine_eq_none_iff]
    simp [State.irqLine]

/-- What an accepted interrupt is (R431). -/
theorem State.of_acceptedInterrupt {s : State} {m : BitVec 4} (h : s.acceptedInterrupt = some m) :
    s.psr.et = true ∧ 1 ≤ m.toNat ∧ s.irqLine m.toNat = true ∧ s.psr.pil.toNat < m.toNat ∧
      ∀ k, m.toNat < k → k ≤ 15 → s.irqLine k = false := by
  cases het : s.psr.et with
  | false =>
    rw [State.acceptedInterrupt_disabled het] at h
    cases h
  | true =>
    rw [State.acceptedInterrupt_enabled het] at h
    obtain ⟨hm1, -, hline, hpil, habove⟩ := of_highestLine_eq_some le_rfl h
    exact ⟨rfl, hm1, hline, hpil, habove⟩

/-- Settles O44: the line of the statement excludes that none is accepted, and the one accepted can be no other. -/
theorem interruptSelection : Obligations.InterruptSelection := by
  refine fun s => ⟨fun m => ⟨State.of_acceptedInterrupt, ?_⟩, s.acceptedInterrupt_eq_none_iff⟩
  rintro ⟨het, hm1, hline, hpil, habove⟩
  cases h : s.acceptedInterrupt with
  | none =>
    rcases s.acceptedInterrupt_eq_none_iff.mp h with hdisabled | hnone
    · exact absurd (het.symm.trans hdisabled) (by decide)
    · have hle := hnone m.toNat hm1 (by omega) hline
      omega
  | some m' =>
    obtain ⟨-, -, hline', -, habove'⟩ := State.of_acceptedInterrupt h
    rw [highest_line_unique hline' hline habove' habove]

/-! ### The step that takes an interrupt, and the step in error mode (R404) -/

/-- A step that accepts an interrupt (R404, R431). -/
theorem step_interrupted {s : State} {m : BitVec 4} (he : s.beginTurn.errorMode = false)
    (hm : s.beginTurn.acceptedInterrupt = some m) :
    step s = .next ((s.beginTurn.takeTrap (.interruptLevel m)).masterWrites s.turn.midway) := by
  rw [step, cycle, he, hm]
  rfl

/-- A step in error mode (R404 line 0). -/
theorem step_of_errorMode {s : State} (he : s.beginTurn.errorMode = true) :
    step s = errorModeStep s.turn.midway s.beginTurn := by
  rw [step, cycle, if_pos he]

/-- Settles O45. -/
theorem stepTakesInterrupt : Obligations.StepTakesInterrupt :=
  fun s m he hm => ⟨_, s.beginTurn.takeTrap_interrupt_entered m, step_interrupted he hm⟩

/-! ### Error mode lasts (R424) -/

@[simp] theorem State.masterWrites_errorMode (s : State) (ms : List MasterWrite) :
    (s.masterWrites ms).errorMode = s.errorMode := by
  obtain ⟨m, d, e⟩ := s.masterWrites_eq ms
  rw [e]

/-- No event but a reset changes error mode. -/
theorem State.event_errorMode (s : State) {e : EnvEvent} (h : e ≠ .reset) : (s.event e).errorMode = s.errorMode := by
  cases e with
  | irqLines lines => rfl
  | masterWrite m => exact s.masterWrites_errorMode [m]
  | reset => exact absurd rfl h

/-- Events without a reset leave error mode as it is. -/
theorem State.events_errorMode (s : State) {es : List EnvEvent} (h : EnvEvent.reset ∉ es) :
    (s.events es).errorMode = s.errorMode := by
  induction es generalizing s with
  | nil => rfl
  | cons e rest ih =>
    obtain ⟨hfirst, hrest⟩ := List.ne_and_not_mem_of_not_mem_cons h
    exact (ih (s.event e) hrest).trans (s.event_errorMode (Ne.symm hfirst))

/-- A turn without a reset leaves error mode as it is. -/
theorem State.beginTurn_errorMode {s : State} (h : EnvEvent.reset ∉ s.turn.before) :
    s.beginTurn.errorMode = s.errorMode :=
  State.events_errorMode _ h

/-- A step in error mode that answers a next state is still in error mode. -/
theorem errorModeStep_errorMode {s t : State} {ms : List MasterWrite} (h : errorModeStep ms s = .next t) :
    t.errorMode = s.errorMode := by
  unfold errorModeStep at h
  split at h
  · cases h
  · cases h
    exact s.masterWrites_errorMode ms

/-- An empty turn takes itself from the input and does nothing else. -/
theorem State.beginTurn_of_empty_turn {s : State} {rest : List EnvTurn}
    (h : s.inputs = { before := [], midway := [] } :: rest) : s.beginTurn = { s with inputs := rest } := by
  simp [State.beginTurn, State.turn, State.events, h]

theorem State.turn_of_cons {s : State} {u : EnvTurn} {rest : List EnvTurn} (h : s.inputs = u :: rest) : s.turn = u := by
  rw [State.turn, h]

/-- Settles O50: without a reset in its turn a step from error mode is the step of error mode. -/
theorem errorModeLastsUntilReset : Obligations.ErrorModeLastsUntilReset := by
  refine fun s he => ⟨fun hnil => ?stops, fun rest hrest hinputs => ?goesOn, fun t ht hleft => ?leaves⟩
  case stops =>
    have hbegin := State.beginTurn_of_nil hnil
    rw [step_of_errorMode (by rw [hbegin]; exact he), hbegin, errorModeStep, hnil]
    rfl
  case goesOn =>
    have hbegin := State.beginTurn_of_empty_turn hinputs
    rw [step_of_errorMode (by rw [hbegin]; exact he), hbegin, errorModeStep, State.turn_of_cons hinputs,
      if_neg (by simpa using hrest)]
    rfl
  case leaves =>
    by_contra hreset
    have hbegin := (State.beginTurn_errorMode hreset).trans he
    rw [step_of_errorMode hbegin] at ht
    rw [errorModeStep_errorMode ht, hbegin] at hleft
    cases hleft

end Sys2Proof.Machine
end

section
/-! PROOFS. How a run ends: O60. An end in error mode is an end of the machine in it, because no instruction faults but by
a bus cycle that nobody answers. -/
namespace Sys2Proof.Machine

/-! ### The fault of an instruction -/

/-- Outcome `r` is no fault but that of a bus cycle nobody answers. -/
structure FaultsUnanswered (r : Result) : Prop where
  fault : ∀ f, r = .fault f → f = .busNoAnswer

namespace FaultsUnanswered

theorem next (t : State) : FaultsUnanswered (.next t) := ⟨fun _ h => nomatch h⟩

theorem raise (tt : TrapType) (s : State) : FaultsUnanswered (raise tt s) := by
  rcases raise_cases tt s with ⟨-, e⟩ | ⟨-, e⟩ <;> rw [e] <;> exact next _

theorem ite {c : Prop} [Decidable c] {r r' : Result} (h : FaultsUnanswered r) (h' : FaultsUnanswered r') :
    FaultsUnanswered (if c then r else r') := by
  split
  · exact h
  · exact h'

theorem privileged {s : State} {r : Result} (h : FaultsUnanswered r) : FaultsUnanswered (privileged s r) :=
  ite h (raise _ s)

end FaultsUnanswered

/-- The only fault of a bus cycle (R93). -/
theorem BusReply.asAccess_fault {α : Type} {b : BusReply α} {onErr : TrapType} {f : Fault}
    (h : b.asAccess onErr = .fault f) : f = .busNoAnswer := by
  cases b <;> cases h
  rfl

/-- A fault of two accesses in a row is one of theirs. -/
theorem Access.bind_fault {α β : Type} {a : Access α} {k : α → State → Access β} {f : Fault}
    (h : a.bind k = .fault f) : a = .fault f ∨ ∃ v s, k v s = .fault f := by
  cases a with
  | done v s => exact .inr ⟨v, s, h⟩
  | trap tr => cases h
  | fault f' => cases h; exact .inl rfl
  | refused r => cases h

theorem dataCheck_ne_fault (s : State) (p : Word) (n : Size) (f : Fault) : dataCheck s p n ≠ .fault f := by
  unfold dataCheck
  split
  · exact nofun
  · split
    · exact nofun
    · split <;> exact nofun

theorem fetchCheck_ne_fault (s : State) (f : Fault) : fetchCheck s ≠ .fault f := by
  unfold fetchCheck
  split
  · exact nofun
  · split <;> exact nofun

theorem memRead_fault {s : State} {p : Word} {n : Size} {f : Fault} (h : memRead s p n = .fault f) :
    f = .busNoAnswer := by
  rcases Access.bind_fault h with hcheck | ⟨_, s', hrest⟩
  · exact absurd hcheck (dataCheck_ne_fault s p n f)
  · rcases Access.bind_fault hrest with hbus | ⟨w, s'', hdone⟩
    · exact BusReply.asAccess_fault hbus
    · cases hdone

theorem memWrite_fault {s : State} {p v : Word} {n : Size} {f : Fault} (h : memWrite s p n v = .fault f) :
    f = .busNoAnswer := by
  rcases Access.bind_fault h with hcheck | ⟨_, s', hbus⟩
  · exact absurd hcheck (dataCheck_ne_fault s p n f)
  · exact BusReply.asAccess_fault hbus

theorem fetch_fault {s : State} {f : Fault} (h : fetch s = .fault f) : f = .busNoAnswer := by
  rcases Access.bind_fault h with hcheck | ⟨_, s', hbus⟩
  · exact absurd hcheck (fetchCheck_ne_fault s f)
  · exact BusReply.asAccess_fault hbus

namespace FaultsUnanswered

/-- An instruction whose access faults in this one way, and that completes or traps after it. -/
theorem andThen {α : Type} {s : State} {a : Access α} {k : α → State → Result}
    (ha : ∀ f, a = .fault f → f = .busNoAnswer) (hk : ∀ v s', FaultsUnanswered (k v s')) :
    FaultsUnanswered (a.andThen s k) := by
  cases a with
  | done v s' => exact hk v s'
  | trap tt => exact raise tt s
  | fault f => exact ⟨by rintro _ ⟨⟩; exact ha f rfl⟩
  | refused r => exact ⟨fun _ h => nomatch h⟩

theorem load (n : Size) (extend : Word → Word) (rd ro1 : RegNum) (o : Operand2) (s : State) :
    FaultsUnanswered (load n extend rd ro1 o s) :=
  andThen (fun _ => memRead_fault) fun _ _ => next _

theorem store (n : Size) (rd ro1 : RegNum) (o : Operand2) (s : State) : FaultsUnanswered (store n rd ro1 o s) :=
  andThen (fun _ => memWrite_fault) fun _ _ => next _

theorem branch (c : Cond) (a : Bool) (d : BitVec 22) (s : State) : FaultsUnanswered (branch c a d s) :=
  ite (next _) (ite (next _) (next _))

theorem trapOn (c : Cond) (ro1 : RegNum) (o : Operand2) (s : State) : FaultsUnanswered (trapOn c ro1 o s) :=
  ite (raise _ s) (next _)

end FaultsUnanswered

/-- Every instruction: the loads and the stores by their bus cycle, the others because they complete or trap. -/
theorem exec_faultsUnanswered (i : Instr) (s : State) : FaultsUnanswered (exec i s) := by
  cases i
  case ld | ldub | lduh | ldsb | ldsh => exact .load ..
  case st | stb | sth => exact .store ..
  case bn a d => exact .branch .never a d s
  case ba a d => exact .branch .always a d s
  case be | ble | bl | bleu | bcs | bneg | bvs | bne | bg | bge | bgu | bcc | bpos | bvc => exact .branch ..
  case tn ro1 o => exact .trapOn .never ro1 o s
  case ta ro1 o => exact .trapOn .always ro1 o s
  case te | tle | tl | tleu | tcs | tneg | tvs | tne | tg | tge | tgu | tcc | tpos | tvc => exact .trapOn ..
  case udiv | udivcc | sdiv | sdivcc | save | restore => exact .ite (.raise _ s) (.next _)
  case jmp => exact .ite (.next _) (.raise _ s)
  case rett => exact .privileged (.ite (.next _) (.raise _ s))
  case rdPsr | rdWim | rdTbr | rdBase | rdLimite | wrPsr | wrWim | wrTbr | wrBase | wrLimite =>
    exact .privileged (.next _)
  all_goals exact .next _

/-! ### The fault of a step -/

theorem fetchAndExec_fault {s : State} {ms : List MasterWrite} {f : Fault} (h : fetchAndExec exec ms s = .fault f) :
    f = .busNoAnswer := by
  cases hfetch : fetch s with
  | done w s' =>
    rw [fetchAndExec_of_done hfetch, execWord] at h
    split at h
    · exact (exec_faultsUnanswered _ _).fault f h
    · exact (FaultsUnanswered.raise _ _).fault f h
    · cases h
  | trap tt =>
    rw [fetchAndExec_of_trap hfetch] at h
    exact (FaultsUnanswered.raise _ _).fault f h
  | fault f' =>
    rw [fetchAndExec_of_fault hfetch] at h
    cases h
    exact fetch_fault hfetch
  | refused r =>
    rw [fetchAndExec_of_refused hfetch] at h
    cases h

/-- The step faults by `errorMode` in error mode alone (R404 line 0, R424). -/
theorem beginTurn_errorMode_of_fault {s : State} (h : step s = .fault .errorMode) : s.beginTurn.errorMode = true := by
  by_contra hne
  have he : s.beginTurn.errorMode = false := Bool.eq_false_of_not_eq_true hne
  cases hint : s.beginTurn.acceptedInterrupt with
  | none =>
    rw [step_fetches he hint] at h
    cases fetchAndExec_fault h
  | some m =>
    rw [step_interrupted he hint] at h
    cases h

/-- A stopped step leaves the state of its check but for memory and the device log: the fetch and the other masters'
writes change nothing else (R99, R454). -/
theorem State.stopped_eq (s : State) : ∃ m d, s.stopped = { s.beginTurn with mem := m, deviceLog := d } := by
  unfold State.stopped
  split
  next w s' hfetch =>
    obtain ⟨-, -, hbus⟩ := fetch_done hfetch
    obtain ⟨m, d, hwrites⟩ := s'.masterWrites_eq s.turn.midway
    rw [hwrites]
    rcases busRead_dtack hbus with ⟨-, -, rfl⟩ | ⟨-, -, rfl⟩ <;> exact ⟨m, d, rfl⟩
  next => exact ⟨s.beginTurn.mem, s.beginTurn.deviceLog, rfl⟩

/-! ### The ends of a run (R454) -/

section

variable {stopPc : Option Word} {s : State}

theorem State.atStop_iff : s.atStop stopPc = true ↔ stopPc = some s.pc := beq_iff_eq

/-- A run ends at once in error mode (R424). -/
theorem run_of_errorMode (he : s.errorMode = true) (n : Nat) : run stopPc n s = { why := .errorMode, state := s } :=
  run_of_ended (by rw [State.ended, if_pos he]) n

/-- A run ends at once at the stop address. -/
theorem run_of_atStop (he : s.errorMode = false) (hpc : stopPc = some s.pc) (n : Nat) :
    run stopPc n s = { why := .stopAddress, state := s } :=
  run_of_ended (by rw [State.ended, he, if_neg Bool.false_ne_true, if_pos (State.atStop_iff.mpr hpc)]) n

/-- A fault of the step ends a run in the state the step stopped in. -/
theorem run_of_fault {f : Fault} (h : s.ended stopPc = none) (hb : s.beginTurn.atStop stopPc = false)
    (hs : step s = .fault f) (n : Nat) : run stopPc (n + 1) s = { why := f.runEnd, state := s.stopped } := by
  simp [run, h, hb, hs]

end

/-- The end that `r` names is the one its state is in. -/
structure RunResult.Justified (stopPc : Option Word) (r : RunResult) : Prop where
  errorMode : r.why = .errorMode → r.state.errorMode = true
  stopAddress : r.why = .stopAddress → stopPc = some r.state.pc
  stuck : r.why = .stuck → ∃ u, step u = .fault .busNoAnswer ∧ r.state = u.stopped

namespace RunResult.Justified

variable {stopPc : Option Word} {s : State}

/-- An end at the start of a step. -/
theorem of_ended {e : RunEnd} (h : s.ended stopPc = some e) : Justified stopPc { why := e, state := s } := by
  rcases State.ended_some h with ⟨rfl, he⟩ | ⟨rfl, -, hpc⟩
  · exact ⟨fun _ => he, nofun, nofun⟩
  · exact ⟨nofun, fun _ => hpc, nofun⟩

/-- An end by a fault of the step. -/
theorem of_fault {f : Fault} (h : step s = .fault f) : Justified stopPc { why := f.runEnd, state := s.stopped } := by
  cases f with
  | errorMode =>
    obtain ⟨m, d, e⟩ := s.stopped_eq
    refine ⟨fun _ => ?_, nofun, nofun⟩
    rw [e]
    exact beginTurn_errorMode_of_fault h
  | busNoAnswer => exact ⟨nofun, nofun, fun _ => ⟨s, h, rfl⟩⟩

end RunResult.Justified

/-- Whatever a run answers is so, by induction on its bound. -/
theorem run_justified (stopPc : Option Word) (n : Nat) (s : State) : (run stopPc n s).Justified stopPc := by
  induction n generalizing s with
  | zero =>
    cases h : s.ended stopPc with
    | some e =>
      rw [run_of_ended h]
      exact .of_ended h
    | none =>
      rw [run, h]
      exact ⟨nofun, nofun, nofun⟩
  | succ n ih =>
    unfold run
    split
    next e h => exact .of_ended h
    next =>
      split
      next hstop => exact ⟨nofun, fun _ => State.atStop_iff.mp hstop, nofun⟩
      next =>
        split
        next t _ => exact ih t
        next f hfault => exact .of_fault hfault
        next => exact ⟨nofun, nofun, nofun⟩

/-- Settles O60: the ends of a run by its cases, and its answers by `run_justified`. -/
theorem runEnds : Obligations.RunEnds := by
  intro stopPc n s
  have hjustified := run_justified stopPc n s
  refine ⟨fun he => run_of_errorMode he n, fun he hpc => run_of_atStop he hpc n, fun he hpc hturn => ?_,
    hjustified.errorMode, hjustified.stopAddress, hjustified.stuck⟩
  have hended : s.ended stopPc = none := State.ended_none.mpr ⟨he, hpc⟩
  have hstart : s.beginTurn.atStop stopPc = false := Bool.eq_false_of_not_eq_true (mt State.atStop_iff.mp hturn)
  refine ⟨fun t ht hte => ?enters, fun hstuck => ⟨run_of_fault hended hstart hstuck n, s.stopped_eq⟩⟩
  case enters => rw [run_of_next hended hstart ht, run_of_errorMode hte]

end Sys2Proof.Machine
end
